-- ==== Sys2Proof/Word.lean ====
section
/-! DEFINITION. The word types of the engine. Every transfer is one byte (spec/20_memory.md R44); the multi-byte
fields are 16 and 32 bits wide (spec/10_state.md R11 to R14); the decode word has 17 bits (spec/30_encoding.md R67).
Byte order is decided in Machine/Bytes.lean. -/

namespace Sys2Proof

/-- One byte: the unit of every address space (R40). -/
abbrev Byte := BitVec 8

/-- A 16-bit counter value, capture register or ADC code. -/
abbrev Half := BitVec 16

/-- A 32-bit tick count or the content of one flash program unit. -/
abbrev Word := BitVec 32

/-- The 32 bytes of one register page or of the transmit buffer (R4 `PAGE_SIZE`). -/
abbrev Page := Vector Byte 32

end Sys2Proof
end

