-- ==== Sys2Proof/Machine/Bytes.lean ====
section
/-! DEFINITION. Byte order, decided once: `INT_BYTE_ORDER` is little-endian (spec/20_memory.md R43, D5) for every
integer field of pages 1, 2 and 4; a flash program unit is written most significant byte first, as the vectors of
spec/95_test_vectors.md 2.4 write `junk` (its order "carries no meaning"). -/

namespace Sys2Proof.Machine

/-- Byte `k` of a value, byte 0 the least significant: `v[8k+7:8k]` (R5). -/
def leByte {w : Nat} (v : BitVec w) (k : Nat) : Byte := v.extractLsb' (8 * k) 8

/-- Byte `k` of a 32-bit value, byte 0 the most significant. -/
def beByte (v : Word) (k : Nat) : Byte := v.extractLsb' (8 * (3 - k)) 8

/-- The 16-bit value of two bytes, `{hi, lo}` (R5 `F16`). -/
def halfOf (lo hi : Byte) : Half := hi ++ lo

/-- The 32-bit value of four bytes, `b3` the most significant. -/
def wordOf (b3 b2 b1 b0 : Byte) : Word := b3 ++ b2 ++ b1 ++ b0

end Sys2Proof.Machine
end

