-- ==== Sys2Proof/Machine/Params.lean ====
section
/-! DEFINITION. The parameters of spec/00_scope.md R4 that have a value. A value that the spec itself decides names its
decision (log 18). `N_PAGES`, `PAGE_SIZE` and `N_CHANNELS` are in the types (`Vector Page 4`, `Page`, `Fin 3`);
`CURSOR_BITS`, `FLASH_UNITS` and `FLASH_UNIT_BYTES` are in the types of `pos` and of the flash operations. -/

namespace Sys2Proof.Machine

/-- `RECORD_SIZE` = 32, equal to `PAGE_SIZE` (90_conflicts.md C3): the cursor may not exceed it. -/
def recordSize : Nat := 32

/-- `SEL_OFFSET` = 31: "Byte 31". -/
def selOffset : Fin 32 := 31

/-- `SAVE_OFFSET` = 19: "byte 19" of page 3. -/
def saveOffset : Fin 32 := 19

/-- `STATUS_OFFSET` = 20 (D3). -/
def statusOffset : Fin 32 := 20

/-- `TCXO_WR_LIMIT` = 19: bytes 0..18 of page 3 are writable. -/
def tcxoWrLimit : Nat := 19

/-- `FREQ_OFFSET` = 26 (D1): bytes 26 and 27 of page 1. -/
def freqOffset : Nat := 26

/-- `VERSION_OFFSET` = 30 (D1). -/
def versionOffset : Fin 32 := 30

/-- `DEFAULT_SRC_FREQ` = 0 (D33). -/
def defaultSrcFreq : Half := 0

/-- `FLASH_ERASED_BYTE` = 0xFF (D15). -/
def flashErasedByte : Byte := 0xFF

/-- `ST_NONE` = 0 (R25, D11). -/
def stNone : Byte := 0

/-- `ST_OK` = 1 (R25, D11). -/
def stOk : Byte := 1

/-- `ST_ERASE_FAIL` = 2 (R25, D11). -/
def stEraseFail : Byte := 2

/-- `ST_WRITE_FAIL` = 3 (R25, D11). -/
def stWriteFail : Byte := 3

/-- `FREQ_WRITE_ANY_PAGE` = false (90_conflicts.md C1, D24): the literal reading of case (b) of R100, a store at 26 or
27 whatever page is current, is held behind this switch. Log 8. -/
def freqWriteAnyPage : Bool := false

end Sys2Proof.Machine
end

