-- ==== Sys2Proof/Event.lean ====
section
/-! DEFINITION. What makes the engine step and what a step outputs: the protocol states (spec/10_state.md R18), the
closed alphabet of events with their operands (spec/30_encoding.md R60), the sampled inputs (R24), the context of the
decode word (R67) and the actions (R61). -/

namespace Sys2Proof

/-- The protocol state `st` (R18): five names, no numeric encoding outside the decode word (D31). -/
inductive Phase where
  | waiting
  | getAddr
  | getData
  | sendData
  | dropData
deriving DecidableEq, Repr, Inhabited

/-- The outcomes of one commit's flash operations (R138), under no law: whether the erase succeeds, whether the
program of unit `k` succeeds, and what a unit whose program failed then holds (U3). -/
structure FlashDraws where
  eraseOk : Bool
  progOk : Vector Bool 5
  junk : Vector Word 5
deriving DecidableEq, Repr, Inhabited

/-- The free-running inputs as one step samples them (R24, R163, R164): no relation between successive samples. -/
structure Inputs where
  tick32 : Word
  cntLo : Half
  cntHi : Half
deriving DecidableEq, Repr, Inhabited

/-- The event alphabet (R60): codes 14 and 15 name no event, so there is no constructor for them. -/
inductive Event where
  | reset
  | addrW
  | addrR
  | rxbyte (b : Byte)
  | txbyte
  | stop
  | errAf
  | errBus
  | abort
  | capture1 (capval : Half)
  | capture2 (capval : Half)
  | capture3 (capval : Half)
  | adc (t v x : Half)
  | flashCommit (d : FlashDraws)
deriving DecidableEq, Repr, Inhabited

/-- One arrival: an event and the inputs that its step samples. -/
structure Arrival where
  event : Event
  inputs : Inputs
deriving DecidableEq, Repr, Inhabited

/-- What the decode word takes from the state before the step (R67): `st`, `cur` and the low eight bits of `pos`. -/
structure Ctx where
  st : Phase
  cur : BitVec 2
  pos : Byte
deriving DecidableEq, Repr

/-- What a step can output to the bus peripheral (R61). -/
inductive Action where
  /-- "request one byte" -/
  | requestRx
  /-- "begin transmitting the current page's snapshot buffer" -/
  | startTx
  /-- "re-enables listening" -/
  | enableListen
  /-- the value the bus sends for this TXBYTE -/
  | byte (b : Byte)
deriving DecidableEq, Repr

end Sys2Proof
end

