-- ==== Sys2Proof/Syntax.lean ====
section
/-! DEFINITION. The operations of the engine: one constructor per row of spec/opcode_table.json, in the table's order
(spec/30_encoding.md R68). A row's operands are the data byte, the capture value, the ADC codes or the flash draws
(R60), and the position bits that the row leaves free and its rule uses (`a`). The sampled inputs are no operands:
a meaning reads them from the state (R24). -/

namespace Sys2Proof

/-- One decoded operation. The docstring of each constructor names its row and rule. -/
inductive Instr where
  /-- row 1, `RESET`, R180 -/
  | reset
  /-- row 2, `ADDR.W`, R80 -/
  | addrW
  /-- row 3, `ADDR.R`, R81 -/
  | addrR
  /-- row 4, `SETPOS`, R82: the offset byte -/
  | setpos (b : Byte)
  /-- row 5, `SELPAGE`, R102: the selector value -/
  | selpage (b : Byte)
  /-- row 6, `ST.FREQ`, R105: position 26 + a -/
  | stFreq (a : BitVec 1) (b : Byte)
  /-- row 7, `ST.TCXO`, R106: position a, 0..15 -/
  | stTcxoCoef (a : BitVec 4) (b : Byte)
  /-- row 8, `ST.TCXO`, R106: position 16 + a -/
  | stTcxoTemp (a : BitVec 1) (b : Byte)
  /-- row 9, `ST.TCXO`, R106: position 18 -/
  | stTcxoRmse (b : Byte)
  /-- row 10, `SAVE`, R107 -/
  | save (b : Byte)
  /-- row 11, `IGN`, R108: the byte is discarded -/
  | ign (b : Byte)
  /-- row 12, `RXDROP`, R87: the byte is discarded -/
  | rxdrop (b : Byte)
  /-- row 13, `TXBYTE`, R85 -/
  | txbyte
  /-- row 14, `TXFILL`, R88 -/
  | txfill
  /-- row 15, `STOP`, R86 -/
  | stop
  /-- row 16, `ERR.AF`, R151 -/
  | errAf
  /-- row 17, `ERR.BUS`, R152 -/
  | errBus
  /-- row 18, `ABORT`, R153 -/
  | abort
  /-- row 19, `CAPTURE.1`, R121 -/
  | capture1 (capval : Half)
  /-- row 20, `CAPTURE.2`, R122 -/
  | capture2 (capval : Half)
  /-- row 21, `CAPTURE.3`, R123 -/
  | capture3 (capval : Half)
  /-- row 22, `ADC`, R126 -/
  | adc (t v x : Half)
  /-- row 23, `FLASH.COMMIT`, R138 -/
  | flashCommit (d : FlashDraws)
deriving DecidableEq, Repr

end Sys2Proof
end

