-- ==== Sys2Proof/WellFormed.lean ====
section
/-! DEFINITION. Which operation the context of a step admits: the operands of an `Instr` hold every value of their
width, so what can be ill-formed is the pair of an operation and the context (`st`, `cur`, `pos`) it is decoded in
(spec/30_encoding.md R67, R68; spec/41_register_writes.md R100). -/

namespace Sys2Proof

open Machine

/-- The writable frequency bytes (R100 case b): positions 26 and 27 of page 1, or of any page under the switch. -/
def Ctx.atFreq (c : Ctx) : Bool :=
  (freqWriteAnyPage || c.cur == 0) && (c.pos.toNat == freqOffset || c.pos.toNat == freqOffset + 1)

/-- The bytes of page 3 that a host write reaches (R100 case c): positions 0..18 and the trigger at 19. -/
def Ctx.atTcxo (c : Ctx) : Bool := c.cur == 2 && decide (c.pos.toNat ≤ saveOffset.val)

/-- `i.wf c`: the decode table (R68) can give `i` in context `c`. -/
def Instr.wf (c : Ctx) : Instr → Bool
  | .reset => true
  | .addrW => true
  | .addrR => true
  | .setpos _ => c.st == .getAddr
  | .selpage _ => c.st == .getData && c.pos.toNat == selOffset.val
  | .stFreq a _ => c.st == .getData && c.atFreq && c.pos.toNat == freqOffset + a.toNat
  | .stTcxoCoef a _ => c.st == .getData && c.cur == 2 && c.pos.toNat == a.toNat
  | .stTcxoTemp a _ => c.st == .getData && c.cur == 2 && c.pos.toNat == 16 + a.toNat
  | .stTcxoRmse _ => c.st == .getData && c.cur == 2 && c.pos.toNat == 18
  | .save _ => c.st == .getData && c.cur == 2 && c.pos.toNat == saveOffset.val
  | .ign _ => c.st == .getData && c.pos.toNat != selOffset.val && !c.atFreq && !c.atTcxo
  | .rxdrop _ => c.st != .getAddr && c.st != .getData
  | .txbyte => c.st == .sendData
  | .txfill => c.st != .sendData
  | .stop => true
  | .errAf => true
  | .errBus => true
  | .abort => true
  | .capture1 _ => true
  | .capture2 _ => true
  | .capture3 _ => true
  | .adc _ _ _ => true
  | .flashCommit _ => true

end Sys2Proof
end

