-- ==== Sys2Proof/Decode.lean ====
section
/-! DEFINITION. Decoding a step (spec/30_encoding.md R60, R65 to R68; spec/41_register_writes.md R100) and, after it, the
encoder. An event record is the 17-bit decode word in three bytes, least significant first, its seven upper bits
zero, and then the operand bytes, each value least significant byte first. The decode word is the spec's; the record's
byte layout is the model's (log 11), since the hardware has no such word (R60, R67). -/

namespace Sys2Proof

open Machine

/-! ### The opcode table (spec/opcode_table.json, R68) -/

/-- One row of the decode table: it matches a decode word `w` when `w &&& mask = pattern`. -/
structure OpcodeRow where
  order : Nat
  mnemonic : String
  pattern : BitVec 17
  mask : BitVec 17
deriving DecidableEq, Repr

/-- Rows 1 to 12 of R68. -/
def opcodeRowsLow : List OpcodeRow := [
  ⟨1, "RESET", 0x00000, 0x1E000⟩,
  ⟨2, "ADDR.W", 0x02000, 0x1E000⟩,
  ⟨3, "ADDR.R", 0x04000, 0x1E000⟩,
  ⟨4, "SETPOS", 0x06400, 0x1FC00⟩,
  ⟨5, "SELPAGE", 0x0681F, 0x1FCFF⟩,
  ⟨6, "ST.FREQ", 0x0681A, 0x1FFFE⟩,
  ⟨7, "ST.TCXO", 0x06A00, 0x1FFF0⟩,
  ⟨8, "ST.TCXO", 0x06A10, 0x1FFFE⟩,
  ⟨9, "ST.TCXO", 0x06A12, 0x1FFFF⟩,
  ⟨10, "SAVE", 0x06A13, 0x1FFFF⟩,
  ⟨11, "IGN", 0x06800, 0x1FC00⟩,
  ⟨12, "RXDROP", 0x06000, 0x1E000⟩]

/-- Rows 13 to 23 of R68. -/
def opcodeRowsHigh : List OpcodeRow := [
  ⟨13, "TXBYTE", 0x08C00, 0x1FC00⟩,
  ⟨14, "TXFILL", 0x08000, 0x1E000⟩,
  ⟨15, "STOP", 0x0A000, 0x1E000⟩,
  ⟨16, "ERR.AF", 0x0C000, 0x1E000⟩,
  ⟨17, "ERR.BUS", 0x0E000, 0x1E000⟩,
  ⟨18, "ABORT", 0x10000, 0x1E000⟩,
  ⟨19, "CAPTURE.1", 0x12000, 0x1E000⟩,
  ⟨20, "CAPTURE.2", 0x14000, 0x1E000⟩,
  ⟨21, "CAPTURE.3", 0x16000, 0x1E000⟩,
  ⟨22, "ADC", 0x18000, 0x1E000⟩,
  ⟨23, "FLASH.COMMIT", 0x1A000, 0x1E000⟩]

/-- The 23 rows, in match order. -/
def opcodeTable : List OpcodeRow := opcodeRowsLow ++ opcodeRowsHigh

/-- "Matched in order and the first match wins" (R67): the number of the row that a decode word selects. -/
def firstRow (w : BitVec 17) : Option Nat :=
  (opcodeTable.find? fun r => w &&& r.mask == r.pattern).map OpcodeRow.order

/-- The row of R68 that an operation stands for. -/
def Instr.row : Instr → Nat
  | .reset => 1
  | .addrW => 2
  | .addrR => 3
  | .setpos _ => 4
  | .selpage _ => 5
  | .stFreq _ _ => 6
  | .stTcxoCoef _ _ => 7
  | .stTcxoTemp _ _ => 8
  | .stTcxoRmse _ => 9
  | .save _ => 10
  | .ign _ => 11
  | .rxdrop _ => 12
  | .txbyte => 13
  | .txfill => 14
  | .stop => 15
  | .errAf => 16
  | .errBus => 17
  | .abort => 18
  | .capture1 _ => 19
  | .capture2 _ => 20
  | .capture3 _ => 21
  | .adc _ _ _ => 22
  | .flashCommit _ => 23

/-! ### From an event and its context to the operation -/

/-- The operation of a data byte `b` at position `pos` of page `cur` (R100, in the rule's order; rows 5 to 11). -/
def dataOp (c : Ctx) (b : Byte) : Instr :=
  if c.pos.toNat = selOffset.val then .selpage b
  else if recordSize ≤ c.pos.toNat then .ign b
  else if c.atFreq then .stFreq (BitVec.ofNat 1 (c.pos.toNat - freqOffset)) b
  else if c.cur = 2 ∧ c.pos.toNat < tcxoWrLimit then
    if c.pos.toNat < 16 then .stTcxoCoef (BitVec.ofNat 4 c.pos.toNat) b
    else if c.pos.toNat < 18 then .stTcxoTemp (BitVec.ofNat 1 (c.pos.toNat - 16)) b
    else .stTcxoRmse b
  else if c.cur = 2 ∧ c.pos.toNat = saveOffset.val then .save b
  else .ign b

/-- The operation of a received byte (rows 4 to 12): by the protocol state. -/
def rxOp (c : Ctx) (b : Byte) : Instr :=
  match c.st with
  | .getAddr => .setpos b
  | .getData => dataOp c b
  | .waiting => .rxdrop b
  | .sendData => .rxdrop b
  | .dropData => .rxdrop b

/-- The operation that an event is in its context (R68). -/
def select (c : Ctx) : Event → Instr
  | .reset => .reset
  | .addrW => .addrW
  | .addrR => .addrR
  | .rxbyte b => rxOp c b
  | .txbyte => if c.st = .sendData then .txbyte else .txfill
  | .stop => .stop
  | .errAf => .errAf
  | .errBus => .errBus
  | .abort => .abort
  | .capture1 v => .capture1 v
  | .capture2 v => .capture2 v
  | .capture3 v => .capture3 v
  | .adc t v x => .adc t v x
  | .flashCommit d => .flashCommit d

/-! ### From bytes to an event in its context -/

/-- Why a byte string is no event record. -/
inductive Reject where
  /-- the decode word or an operand is cut short -/
  | truncated
  /-- one of the bits above the 17 of the decode word, or above the six of the draw flags, is set -/
  | strayBits
  /-- event codes 14 and 15 (R60: "no such event") -/
  | noSuchEvent (code : BitVec 4)
  /-- state codes 5, 6 and 7 (R67: "no such state") -/
  | noSuchState (code : BitVec 3)
deriving DecidableEq, Repr

/-- The state code table of R67. -/
def phaseOfCode (code : BitVec 3) : Option Phase :=
  match code.toNat with
  | 0 => some .waiting
  | 1 => some .getAddr
  | 2 => some .getData
  | 3 => some .sendData
  | 4 => some .dropData
  | _ => none

/-- A 16-bit operand. -/
def takeHalf : List Byte → Except Reject (Half × List Byte)
  | lo :: hi :: r => .ok (halfOf lo hi, r)
  | _ => .error .truncated

/-- A 32-bit operand. -/
def takeWord : List Byte → Except Reject (Word × List Byte)
  | b0 :: b1 :: b2 :: b3 :: r => .ok (wordOf b3 b2 b1 b0, r)
  | _ => .error .truncated

/-- The draws of FLASH.COMMIT: a byte with `erase_ok` in bit 0 and `prog_ok[k]` in bit `k + 1`, then `junk[0..4]`. -/
def takeDraws : List Byte → Except Reject (FlashDraws × List Byte)
  | [] => .error .truncated
  | f :: r => do
    if f.toNat < 64 then
      let (j0, r) ← takeWord r
      let (j1, r) ← takeWord r
      let (j2, r) ← takeWord r
      let (j3, r) ← takeWord r
      let (j4, r) ← takeWord r
      let ok := #v[f.getLsbD 1, f.getLsbD 2, f.getLsbD 3, f.getLsbD 4, f.getLsbD 5]
      .ok (⟨f.getLsbD 0, ok, #v[j0, j1, j2, j3, j4]⟩, r)
    else .error .strayBits

/-- The event of a code (R60) with its operands, and the bytes after them. -/
def parseEvent (code : BitVec 4) (ops : List Byte) : Except Reject (Event × List Byte) :=
  match code.toNat with
  | 0 => .ok (.reset, ops)
  | 1 => .ok (.addrW, ops)
  | 2 => .ok (.addrR, ops)
  | 3 =>
    match ops with
    | b :: r => .ok (.rxbyte b, r)
    | [] => .error .truncated
  | 4 => .ok (.txbyte, ops)
  | 5 => .ok (.stop, ops)
  | 6 => .ok (.errAf, ops)
  | 7 => .ok (.errBus, ops)
  | 8 => .ok (.abort, ops)
  | 9 => do
    let (v, r) ← takeHalf ops
    .ok (.capture1 v, r)
  | 10 => do
    let (v, r) ← takeHalf ops
    .ok (.capture2 v, r)
  | 11 => do
    let (v, r) ← takeHalf ops
    .ok (.capture3 v, r)
  | 12 => do
    let (t, r) ← takeHalf ops
    let (v, r) ← takeHalf r
    let (x, r) ← takeHalf r
    .ok (.adc t v x, r)
  | 13 => do
    let (d, r) ← takeDraws ops
    .ok (.flashCommit d, r)
  | _ => .error (.noSuchEvent code)

/-- The context, the event and the rest of a byte string that begins with an event record. -/
def parse : List Byte → Except Reject (Ctx × Event × List Byte)
  | b0 :: b1 :: b2 :: ops =>
    let w : BitVec 24 := b2 ++ b1 ++ b0
    if w.toNat < 2 ^ 17 then
      match phaseOfCode (w.extractLsb' 10 3) with
      | none => .error (.noSuchState (w.extractLsb' 10 3))
      | some st => do
        let (e, r) ← parseEvent (w.extractLsb' 13 4) ops
        .ok (⟨st, w.extractLsb' 8 2, w.extractLsb' 0 8⟩, e, r)
    else .error .strayBits
  | _ => .error .truncated

/-- The decoder: total on any bytes; the operation and the bytes after its record, or the reason for a refusal. -/
def decode (bs : List Byte) : Except Reject (Instr × List Byte) := do
  let (c, e, r) ← parse bs
  .ok (select c e, r)

/-! ### The encoder -/

/-- The event code (R60). -/
def Event.code : Event → BitVec 4
  | .reset => 0
  | .addrW => 1
  | .addrR => 2
  | .rxbyte _ => 3
  | .txbyte => 4
  | .stop => 5
  | .errAf => 6
  | .errBus => 7
  | .abort => 8
  | .capture1 _ => 9
  | .capture2 _ => 10
  | .capture3 _ => 11
  | .adc _ _ _ => 12
  | .flashCommit _ => 13

/-- The state code (R67). -/
def Phase.code : Phase → BitVec 3
  | .waiting => 0
  | .getAddr => 1
  | .getData => 2
  | .sendData => 3
  | .dropData => 4

/-- `DW = {ev[3:0], st[2:0], cur[1:0], pos[7:0]}` (R67). -/
def decodeWord (c : Ctx) (e : Event) : BitVec 17 := e.code ++ c.st.code ++ c.cur ++ c.pos

/-- The three bytes of a decode word, least significant first. -/
def decodeWordBytes (w : BitVec 17) : List Byte := [leByte w 0, leByte w 1, leByte w 2]

/-- A 16-bit operand's bytes. -/
def halfBytes (v : Half) : List Byte := [leByte v 0, leByte v 1]

/-- A 32-bit operand's bytes. -/
def wordBytes (v : Word) : List Byte := [leByte v 0, leByte v 1, leByte v 2, leByte v 3]

/-- The flag byte of FLASH.COMMIT's draws. -/
def drawFlags (d : FlashDraws) : Byte :=
  0#2 ++ BitVec.ofBool d.progOk[4] ++ BitVec.ofBool d.progOk[3] ++ BitVec.ofBool d.progOk[2] ++
    BitVec.ofBool d.progOk[1] ++ BitVec.ofBool d.progOk[0] ++ BitVec.ofBool d.eraseOk

/-- The operand bytes of an event. -/
def Event.operandBytes : Event → List Byte
  | .reset => []
  | .addrW => []
  | .addrR => []
  | .rxbyte b => [b]
  | .txbyte => []
  | .stop => []
  | .errAf => []
  | .errBus => []
  | .abort => []
  | .capture1 v => halfBytes v
  | .capture2 v => halfBytes v
  | .capture3 v => halfBytes v
  | .adc t v x => halfBytes t ++ (halfBytes v ++ halfBytes x)
  | .flashCommit d =>
    drawFlags d :: (wordBytes d.junk[0] ++ (wordBytes d.junk[1] ++ (wordBytes d.junk[2] ++
      (wordBytes d.junk[3] ++ wordBytes d.junk[4]))))

/-- The record of an event in its context. -/
def encodeEvent (c : Ctx) (e : Event) : List Byte := decodeWordBytes (decodeWord c e) ++ e.operandBytes

/-- The event that an operation comes from: what R68's row says of `ev`. -/
def Instr.event : Instr → Event
  | .reset => .reset
  | .addrW => .addrW
  | .addrR => .addrR
  | .setpos b => .rxbyte b
  | .selpage b => .rxbyte b
  | .stFreq _ b => .rxbyte b
  | .stTcxoCoef _ b => .rxbyte b
  | .stTcxoTemp _ b => .rxbyte b
  | .stTcxoRmse b => .rxbyte b
  | .save b => .rxbyte b
  | .ign b => .rxbyte b
  | .rxdrop b => .rxbyte b
  | .txbyte => .txbyte
  | .txfill => .txbyte
  | .stop => .stop
  | .errAf => .errAf
  | .errBus => .errBus
  | .abort => .abort
  | .capture1 v => .capture1 v
  | .capture2 v => .capture2 v
  | .capture3 v => .capture3 v
  | .adc t v x => .adc t v x
  | .flashCommit d => .flashCommit d

/-- The encoder: the record of an operation decoded in context `c`. -/
def encode (c : Ctx) (i : Instr) : List Byte := encodeEvent c i.event

/-! ### The opcode table's numbering -/

/-- The 24 bytes (the longest record) of an instruction whose low `nbits` bits are those of `w`, the rest zero. -/
def tableBytes (nbits w : Nat) : List Byte :=
  (List.range 24).map fun k => BitVec.ofNat 8 (w % 2 ^ nbits / 256 ^ k)

/-- What the decoder reads from an instruction whose bits are `w` in spec/opcode_table.json's numbering. -/
def decodeTableWord (nbits w : Nat) : Option Instr :=
  match decode (tableBytes nbits w) with
  | .ok (i, _) => some i
  | .error _ => none

end Sys2Proof
end

