-- ==== Sys2Proof/Config.lean ====
section
/-! DEFINITION. What the spec leaves to a parameter or to a free choice, as constants without a body: nothing in Lean
can prove a value of one. The parameters that have a value are in Machine/Params.lean. -/

namespace Sys2Proof

/-- `PROTOCOL_VERSION` (R4, D27, U14): OPEN, the version byte at offset 30 of page 1. Log 4. -/
opaque Config.protocolVersion : Byte

/-- `CAL[0..2]` (R4, D10, U14): OPEN, the factory calibration constants of page 2. Log 5. -/
opaque Config.cal : Fin 3 → Half

/-- `I2C_SLAVE_ADDR` (R4, D28, U14): OPEN, "never read by any rule"; nothing in the model reads it. Log 6. -/
opaque Config.i2cSlaveAddr : Nat

/-- The inputs as the reset that leads to `State.reset` samples them (R24, R180 step 6). Log 2. -/
opaque Config.resetInputs : Inputs

/-- The arrival the engine takes when the schedule lists none and no commit is due (log 14): any event with any operands, draws and samples. The
order of events of different sources is free (R49, R158, D30) and so are the inputs (U10). Log 1. -/
opaque Config.arrival : Nat → Arrival

/-- The outcomes of the commit that the free schedule takes when one is due (U3). Log 14. -/
opaque Config.commitDraws : Nat → FlashDraws

/-- How many free arrivals may come before a pending commit runs: any number, but a number, since an enabled commit
"must eventually run (weak fairness)" (R137). Log 14. -/
opaque Config.commitPatience : Nat → Nat

end Sys2Proof
end

