-- ==== Sys2Proof/Machine/State.lean ====
section
/-! DEFINITION. The state of the engine as plain data (spec/10_state.md), the reasons a step can stop, and the state
right after reset (R29). The four live pages and the transmit buffer are the register file and are vectors; the
flash record is the memory, a list of cells in canonical form (Machine/Ops.lean `Memory.wf`). -/

namespace Sys2Proof.Machine

/-- Why the machine stops. The engine "has no trap and no halting state" (93_implementation_defined.md part 1), so no
constructor exists and no meaning can fault. -/
inductive Fault where
deriving DecidableEq, Repr

/-- Why an operation is not run. -/
inductive Refusal where
  /-- Raised by an arm of `exec` whose operation has no meaning yet; no arm raises it. Safe: the run ends. -/
  | notModelled (mnemonic : String)
deriving DecidableEq, Repr

/-- The flash record as (address, byte) pairs, addresses 0..19 (R23); an unlisted address reads as the erased byte. -/
abbrev Memory := List Host.Cell

/-- The state of the engine. -/
structure State where
  /-- `LIVE[0..3]`, the four live pages by selector (R10 to R15) -/
  live : Vector Page 4
  /-- `TX[0..31]`, the transmit snapshot buffer (R16) -/
  tx : Page
  /-- `cur`, the selector of the current page (R17) -/
  cur : BitVec 2
  /-- `st`, the protocol state (R18) -/
  st : Phase
  /-- `pos`, the write cursor, `CURSOR_BITS` = 9 (R19) -/
  pos : BitVec 9
  /-- `txi`, the transmit index, 0..32 (R20, R90) -/
  txi : BitVec 6
  /-- `listen`: armed to answer an address match (R21) -/
  listen : Bool
  /-- `irq_mask`, the global interrupt disable of the critical section (R22) -/
  irqMask : Bool
  /-- `FLASHB[0..19]`, the non-volatile calibration record (R23) -/
  flash : Memory
  /-- `TICK32`, `CNT_LO`, `CNT_HI` as the step in progress samples them (R24; log 2) -/
  inputs : Inputs
  /-- the action that the last step output, if it output one (R61; log 3) -/
  out : Option Action
  /-- the model's own: the arrivals not yet taken, in the order in which they are taken (log 1) -/
  pending : List Arrival
  /-- the model's own: how many arrivals have been taken from the free schedule `Config.arrival` (log 1) -/
  drawn : Nat
  /-- the model's own: how many free arrivals may still come before a commit that is enabled runs (R137; log 14) -/
  patience : Nat
deriving DecidableEq, Repr

/-- One step's three outcomes (Host/Core.lean). -/
abbrev Result := Host.Outcome State Fault Refusal

/-- `LIVE[0]` after reset (R29): `tick_now` is the reset's sample of `TICK32`, `version` is `PROTOCOL_VERSION`. -/
def resetPage0 : Page :=
  #v[leByte Config.resetInputs.tick32 0, leByte Config.resetInputs.tick32 1, leByte Config.resetInputs.tick32 2,
    leByte Config.resetInputs.tick32 3, 0, 0, 0, 0, 0, 0, 0, 0, 0, 0, 0, 0, 0, 0, 0, 0, 0, 0, 0, 0, 0, 0, 0, 0, 0, 0,
    Config.protocolVersion, 0]

/-- `LIVE[1]` after reset (R29): the factory constants at 10..15. -/
def resetPage1 : Page :=
  #v[0, 0, 0, 0, 0, 0, 0, 0, 0, 0, leByte (Config.cal 0) 0, leByte (Config.cal 0) 1, leByte (Config.cal 1) 0,
    leByte (Config.cal 1) 1, leByte (Config.cal 2) 0, leByte (Config.cal 2) 1, 0, 0, 0, 0, 0, 0, 0, 0, 0, 0, 0, 0, 0, 0,
    0, 1]

/-- `LIVE[2]` after reset (R29) with a flash record that was never programmed: nineteen bytes 0xFF. -/
def resetPage2 : Page :=
  #v[0xFF, 0xFF, 0xFF, 0xFF, 0xFF, 0xFF, 0xFF, 0xFF, 0xFF, 0xFF, 0xFF, 0xFF, 0xFF, 0xFF, 0xFF, 0xFF, 0xFF, 0xFF, 0xFF,
    0, 0, 0, 0, 0, 0, 0, 0, 0, 0, 0, 0, 2]

/-- `LIVE[3]` after reset (R29). -/
def resetPage3 : Page :=
  #v[0, 0, 0, 0, 0, 0, 0, 0, 0, 0, 0, 0, 0, 0, 0, 0, 0, 0, 0, 0, 0, 0, 0, 0, 0, 0, 0, 0, 0, 0, 0, 3]

/-- The machine right after reset (R29), on a device whose flash record was never programmed (log 7). -/
def State.reset : State where
  live := #v[resetPage0, resetPage1, resetPage2, resetPage3]
  tx := resetPage0
  cur := 0
  st := .waiting
  pos := 0
  txi := 0
  listen := true
  irqMask := false
  flash := []
  inputs := Config.resetInputs
  out := some .enableListen
  pending := []
  drawn := 0
  patience := Config.commitPatience 0

end Sys2Proof.Machine
end

