-- ==== Sys2Proof/Machine/Ops.lean ====
section
/-! DEFINITION. The named operations over the live pages, the transmit buffer, the flash record and the bus interface,
and TAKING AN ERROR as one shared operation. -/

namespace Sys2Proof.Machine

/-! ### The live pages (R5: `LIVE[p][i]`, `LIVE[p][i] <- v`) -/

/-- The live image of the page with selector `p`. -/
def State.page (s : State) (p : BitVec 2) : Page := s.live[p.toNat]'p.isLt

/-- `LIVE[p][i]`. -/
def State.readLive (s : State) (p : BitVec 2) (i : Fin 32) : Byte := (s.page p)[i]

/-- `LIVE[p][i] <- v`. -/
def State.writeLive (s : State) (p : BitVec 2) (i : Fin 32) (v : Byte) : State :=
  { s with live := s.live.set p.toNat ((s.page p).set i v) p.isLt }

/-! ### The bus interface -/

/-- `emit A` (R61). -/
def State.emit (s : State) (a : Action) : State := { s with out := some a }

/-- "Re-enables listening" (R21). -/
def State.rearm (s : State) : State := { s with listen := true }.emit .enableListen

/-- The critical section (R103): the copy of live page `p` into the transmit buffer, interrupts disabled. -/
def State.snapshot (s : State) (p : BitVec 2) : State :=
  let masked := { s with irqMask := true }
  let copied := { masked with tx := masked.page p }
  { copied with irqMask := false }

/-- The tail of a data byte's step (R83): advance the cursor, then drop the rest of a transaction that has passed the
whole-record size, or ask for the next byte. -/
def State.advance (s : State) : State :=
  let moved := { s with pos := s.pos + 1 }
  if recordSize < moved.pos.toNat then { moved with st := .dropData } else moved.emit .requestRx

/-- Taking a bus error (R150, R159): the in-flight transaction is dropped and nothing is saved; listening is re-armed
except after the address-nack class. -/
def State.takeError (s : State) (rearms : Bool) : State :=
  let dropped := { s with st := .dropData }
  if rearms then dropped.rearm else dropped

/-- The return to service at the end of a transaction (R86, R160). -/
def State.endTransaction (s : State) : State := { s with st := .waiting }.rearm

/-! ### The flash record (R23, R135) -/

/-- The byte at an address of the record: the listed one, or the erased byte. -/
def Memory.lookup : Memory → Nat → Byte
  | [], _ => flashErasedByte
  | (b, w) :: m, a => if a = b then w else Memory.lookup m a

/-- Store a byte and keep the canonical form: addresses strictly rising, no entry equal to the erased byte. -/
def Memory.store : Memory → Nat → Byte → Memory
  | [], a, v => if v = flashErasedByte then [] else [(a, v)]
  | (b, w) :: m, a, v =>
    if a < b then
      if v = flashErasedByte then (b, w) :: m else (a, v) :: (b, w) :: m
    else if a = b then
      if v = flashErasedByte then m else (a, v) :: m
    else (b, w) :: Memory.store m a v

/-- Every address is below `n`, at or above `lo`, strictly rising, and no entry equals the erased byte. -/
def Memory.wfFrom : Nat → Memory → Bool
  | _, [] => true
  | lo, (a, v) :: m => decide (lo ≤ a) && decide (a < 20) && (v != flashErasedByte) && Memory.wfFrom (a + 1) m

/-- The canonical form of the flash record. -/
def Memory.wf (m : Memory) : Bool := Memory.wfFrom 0 m

/-- `FLASHB[i]`; the record has no address but 0..19 (R40). -/
def State.readFlash (s : State) (i : Fin 20) : Byte := Memory.lookup s.flash i.val

/-- `FLASHB[4k .. 4k+3] <- v`, most significant byte of the unit's value first (R135, R138). -/
def Memory.storeUnit (m : Memory) (k : Fin 5) (v : Word) : Memory :=
  Memory.store (Memory.store (Memory.store (Memory.store m (4 * k.val) (beByte v 0)) (4 * k.val + 1) (beByte v 1))
    (4 * k.val + 2) (beByte v 2)) (4 * k.val + 3) (beByte v 3)

/-- The erased record (R135): all 20 bytes read as the erased byte. -/
def Memory.erased : Memory := []

/-- `load()` (R136): bytes 0..18 of the record into page 3, for the first `n` of them. -/
def State.flashLoad (s : State) : (n : Nat) → n ≤ 19 → State
  | 0, _ => s
  | n + 1, h => (s.flashLoad n (by omega)).writeLive 2 ⟨n, by omega⟩ (s.readFlash ⟨n, by omega⟩)

/-- `src[i]` of a commit (R138): bytes 0..18 of page 3 as they are now, then the pad byte 0x00. -/
def State.commitByte (s : State) (i : Fin 20) : Byte :=
  if h : i.val < tcxoWrLimit then s.readLive 2 ⟨i.val, Nat.lt_trans h (by decide)⟩ else 0

/-- `src[4k .. 4k+3]` as one unit. -/
def State.commitUnit (s : State) (k : Fin 5) : Word :=
  wordOf (s.commitByte ⟨4 * k.val, by omega⟩) (s.commitByte ⟨4 * k.val + 1, by omega⟩)
    (s.commitByte ⟨4 * k.val + 2, by omega⟩) (s.commitByte ⟨4 * k.val + 3, by omega⟩)

/-- The program units in the order in which they are written (R54): ascending. -/
def unitOrder : List (Fin 5) := [0, 1, 2, 3, 4]

/-- The program operations of a commit (R138): stop at the first failure, whose unit is left with `junk[k]`. -/
def programUnits (src : Fin 5 → Word) (d : FlashDraws) : List (Fin 5) → Memory → Memory × Byte
  | [], m => (m, stOk)
  | k :: ks, m =>
    if d.progOk[k] then programUnits src d ks (m.storeUnit k (src k)) else (m.storeUnit k d.junk[k], stWriteFail)

/-- Erase, then program (R138): the record and the status that a commit leaves. -/
def State.commitFlash (s : State) (d : FlashDraws) : Memory × Byte :=
  if d.eraseOk then programUnits s.commitUnit d unitOrder Memory.erased else (s.flash, stEraseFail)

end Sys2Proof.Machine
end

