-- ==== Sys2Proof/Machine/Operands.lean ====
section
/-! DEFINITION. The operand forms: multi-byte field stores (spec/00_scope.md R5), the effective selector (R101), the
positions that a row's free bits name (R68), the sampled inputs (R24), and the byte a read returns (R85). -/

namespace Sys2Proof.Machine

/-- `F16(p, o) <- v` (R5): little-endian (R43). -/
def State.writeF16 (s : State) (p : BitVec 2) (o : Nat) (v : Half) (h : o + 1 < 32) : State :=
  (s.writeLive p ⟨o, by omega⟩ (leByte v 0)).writeLive p ⟨o + 1, h⟩ (leByte v 1)

/-- `F32(p, o) <- v` (R5): little-endian (R43). -/
def State.writeF32 (s : State) (p : BitVec 2) (o : Nat) (v : Word) (h : o + 3 < 32) : State :=
  (((s.writeLive p ⟨o, by omega⟩ (leByte v 0)).writeLive p ⟨o + 1, by omega⟩ (leByte v 1)).writeLive p
    ⟨o + 2, by omega⟩ (leByte v 2)).writeLive p ⟨o + 3, h⟩ (leByte v 3)

/-- `sel_eff(b)` (R66, R101): all eight bits are compared; a value above 3 selects page 1. -/
def selEff (b : Byte) : BitVec 2 := if b.toNat ≤ 3 then b.extractLsb' 0 2 else 0

/-- Row 6's positions: 26 and 27. -/
def freqPosition (a : BitVec 1) : Fin 32 := if a = 0 then 26 else 27

/-- Row 7's positions: 0..15. -/
def coefPosition (a : BitVec 4) : Fin 32 := ⟨a.toNat, Nat.lt_trans a.isLt (by decide)⟩

/-- Row 8's positions: 16 (`max_temp`) and 17 (`min_temp`). -/
def tempPosition (a : BitVec 1) : Fin 32 := if a = 0 then 16 else 17

/-- Row 9's position: 18 (`rmse`). -/
def rmsePosition : Fin 32 := 18

/-- The refresh of a page selection (R102): `tick_now` of page 1, `raw_lo` and `raw_hi` of page 4. -/
def State.refresh (s : State) (p : BitVec 2) : State :=
  if p = 0 then s.writeF32 0 0 s.inputs.tick32 (by decide)
  else if p = 3 then (s.writeF16 3 0 s.inputs.cntLo (by decide)).writeF16 3 2 s.inputs.cntHi (by decide)
  else s

/-- The common part of the capture rules (R124), channel index `c`: the entry at `8 + 6c` of page 1. -/
def State.captureCommon (s : State) (c : Fin 3) (capval : Half) : State :=
  ((s.writeF16 0 (8 + 6 * c.val) s.inputs.cntLo (by omega)).writeF16 0 (8 + 6 * c.val + 2) s.inputs.cntHi
    (by omega)).writeF16 0 (8 + 6 * c.val + 4) capval (by omega)

/-- One more capture of a channel without a tick (R125): the counter at offset `i` of page 1, modulo 2^8. -/
def State.bumpRollover (s : State) (i : Fin 32) : State := s.writeLive 0 i (s.readLive 0 i + 1)

/-- `TX[txi]`, or the filler zero byte once the buffer is exhausted (R85). -/
def State.txByte (s : State) : Byte := if h : s.txi.toNat < 32 then s.tx[s.txi.toNat] else 0

end Sys2Proof.Machine
end

