-- ==== Sys2Proof/Machine/Flags.lean ====
section
/-! DEFINITION. The engine has no condition codes; its two flag-like fields are `save` and `save_status` of page 3
(spec/10_state.md R25). -/

namespace Sys2Proof.Machine

/-- `save` = `LIVE[2][19]` (R13, R25). -/
def State.saveByte (s : State) : Byte := s.readLive 2 saveOffset

/-- `save_status` = `LIVE[2][20]` (R13, R25). -/
def State.saveStatus (s : State) : Byte := s.readLive 2 statusOffset

/-- A write to the trigger (R107): a non-zero byte is stored, a zero is ignored. -/
def State.writeSave (s : State) (b : Byte) : State := if b = 0 then s else s.writeLive 2 saveOffset b

/-- The end of a commit (R138): the status is recorded and the trigger consumed. -/
def State.recordCommit (s : State) (status : Byte) : State :=
  (s.writeLive 2 statusOffset status).writeLive 2 saveOffset 0

/-- `FLASH.COMMIT` is enabled (R137): a save is pending and interrupts are not masked. -/
def State.commitEnabled (s : State) : Bool := s.saveByte != 0 && !s.irqMask

end Sys2Proof.Machine
end

