-- ==== Sys2Proof/Machine/Bus.lean ====
section
/-! DEFINITION. The bus transaction events (spec/40_bus_transactions.md). -/

namespace Sys2Proof.Machine

/-- `ADDR.W` (R80): only while `listen` is set; an address match the engine is not armed for is turned away (log 9). -/
def execAddrW (s : State) : Result :=
  if s.listen then .next ({ s with st := .getAddr }.emit .requestRx) else .next s

/-- `ADDR.R` (R81): as R80; `TX` is the snapshot of the last selection, however old. -/
def execAddrR (s : State) : Result :=
  if s.listen then .next ({ s with st := .sendData, txi := 0 }.emit .startTx) else .next s

/-- `SETPOS` (R82, R65): the offset byte, zero-extended and not range-checked. -/
def execSetpos (b : Byte) (s : State) : Result :=
  .next ({ s with pos := b.setWidth 9, st := .getData }.emit .requestRx)

/-- `RXDROP` (R87): the byte is discarded, "no state change, no action". -/
def execRxdrop (_b : Byte) (s : State) : Result := .next s

/-- `TXBYTE` (R85): byte `txi` of the snapshot, then filler zeros; `txi` saturates at 32. -/
def execTxbyte (s : State) : Result :=
  .next ({ s with txi := if s.txi.toNat < 32 then s.txi + 1 else s.txi }.emit (.byte s.txByte))

/-- `TXFILL` (R88): the filler byte, no state change. -/
def execTxfill (s : State) : Result := .next (s.emit (.byte 0))

/-- `STOP` (R86). -/
def execStop (s : State) : Result := .next s.endTransaction

end Sys2Proof.Machine
end

