-- ==== Sys2Proof/Machine/Capture.lean ====
section
/-! DEFINITION. The capture interrupts and the ADC (spec/42_capture_and_sampling.md). They write live pages 1 and 2
whatever page is current and whatever the protocol state; while interrupts are masked the step holds them (R157). -/

namespace Sys2Proof.Machine

/-- `CAPTURE.1` (R121, R124): the entry of channel 1 and `tick_cap1`. -/
def execCapture1 (capval : Half) (s : State) : Result :=
  .next ((s.captureCommon 0 capval).writeF32 0 4 s.inputs.tick32 (by decide))

/-- `CAPTURE.2` (R122, R124, R125): the entry of channel 2 and `roll[0]`. -/
def execCapture2 (capval : Half) (s : State) : Result := .next ((s.captureCommon 1 capval).bumpRollover 28)

/-- `CAPTURE.3` (R123, R124, R125): the entry of channel 3 and `roll[1]`. -/
def execCapture3 (capval : Half) (s : State) : Result := .next ((s.captureCommon 2 capval).bumpRollover 29)

/-- `ADC` (R126): the tick and the three raw codes of page 2. -/
def execAdc (t v x : Half) (s : State) : Result :=
  .next ((((s.writeF32 1 0 s.inputs.tick32 (by decide)).writeF16 1 4 t (by decide)).writeF16 1 6 v
    (by decide)).writeF16 1 8 x (by decide))

end Sys2Proof.Machine
end

