-- ==== Sys2Proof/Machine/Errors.lean ====
section
/-! DEFINITION. The three bus error events (spec/60_exceptions.md). -/

namespace Sys2Proof.Machine

/-- `ERR.AF` (R151): the address-nack class; listening is not re-armed. -/
def execErrAf (s : State) : Result := .next (s.takeError false)

/-- `ERR.BUS` (R152): any other bus error. -/
def execErrBus (s : State) : Result := .next (s.takeError true)

/-- `ABORT` (R153): a transfer abort. -/
def execAbort (s : State) : Result := .next (s.takeError true)

end Sys2Proof.Machine
end

