-- ==== Sys2Proof/Machine/Flash.lean ====
section
/-! DEFINITION. The commit of the calibration record (spec/43_flash_store.md). -/

namespace Sys2Proof.Machine

/-- `FLASH.COMMIT` (R137, R138): erase, program, record the status, consume the trigger. Where it is not enabled "the
step cannot occur": nothing happens (log 9). -/
def execFlashCommit (d : FlashDraws) (s : State) : Result :=
  if s.commitEnabled then
    .next ({ s with flash := (s.commitFlash d).1 }.recordCommit (s.commitFlash d).2)
  else .next s

end Sys2Proof.Machine
end

