-- ==== Sys2Proof/Machine/Registers.lean ====
section
/-! DEFINITION. What a received data byte does (spec/41_register_writes.md), each with the tail of R83. -/

namespace Sys2Proof.Machine

/-- `SELPAGE` (R101, R102, R103): switch, refresh, snapshot. -/
def execSelpage (b : Byte) (s : State) : Result :=
  .next ((({ s with cur := selEff b }.refresh (selEff b)).snapshot (selEff b)).advance)

/-- `ST.FREQ` (R105): one byte of `src_freq`, always in `LIVE[0]`. -/
def execStFreq (a : BitVec 1) (b : Byte) (s : State) : Result := .next (s.writeLive 0 (freqPosition a) b).advance

/-- `ST.TCXO` at positions 0..15 (R106): one byte of a coefficient. -/
def execStTcxoCoef (a : BitVec 4) (b : Byte) (s : State) : Result := .next (s.writeLive 2 (coefPosition a) b).advance

/-- `ST.TCXO` at positions 16 and 17 (R106): a temperature bound. -/
def execStTcxoTemp (a : BitVec 1) (b : Byte) (s : State) : Result := .next (s.writeLive 2 (tempPosition a) b).advance

/-- `ST.TCXO` at position 18 (R106): `rmse`. -/
def execStTcxoRmse (b : Byte) (s : State) : Result := .next (s.writeLive 2 rmsePosition b).advance

/-- `SAVE` (R107): a non-zero byte arms the commit, a zero is ignored. -/
def execSave (b : Byte) (s : State) : Result := .next (s.writeSave b).advance

/-- `IGN` (R108): nothing but the tail. -/
def execIgn (_b : Byte) (s : State) : Result := .next s.advance

end Sys2Proof.Machine
end

