-- ==== Sys2Proof/Machine/Reset.lean ====
section
/-! DEFINITION. Reset (spec/70_reset_and_hazards.md R180): the seven steps, in the rule's order. -/

namespace Sys2Proof.Machine

/-- Step 1: pages and buffer zero, the protocol state and its indices at their start. -/
def State.resetZero (s : State) : State :=
  { s with live := Vector.replicate 4 (Vector.replicate 32 0), tx := Vector.replicate 32 0, cur := 0, st := .waiting,
           pos := 0, txi := 0, irqMask := false, listen := false }

/-- Step 2: byte 31 of every page holds its selector (R15). -/
def State.resetSelectors (s : State) : State :=
  (((s.writeLive 0 selOffset 0).writeLive 1 selOffset 1).writeLive 2 selOffset 2).writeLive 3 selOffset 3

/-- Step 3: the version byte and the default source frequency. -/
def State.resetPrimary (s : State) : State :=
  (s.writeLive 0 versionOffset Config.protocolVersion).writeF16 0 freqOffset defaultSrcFreq (by decide)

/-- Step 4: the factory calibration constants. -/
def State.resetCal (s : State) : State :=
  ((s.writeF16 1 10 (Config.cal 0) (by decide)).writeF16 1 12 (Config.cal 1) (by decide)).writeF16 1 14 (Config.cal 2)
    (by decide)

/-- The whole sequence; step 5 is FLASH.LOAD (R136), step 6 the initial selection of page 1, step 7 listening. -/
def State.resetSequence (s : State) : State :=
  let built := s.resetZero.resetSelectors.resetPrimary.resetCal
  let loaded := built.flashLoad 19 (by decide)
  ((loaded.refresh 0).snapshot 0).rearm

/-- `RESET` (R180): `FLASHB` is not written; the environment's schedule is not the engine's to reset. -/
def execReset (s : State) : Result := .next s.resetSequence

end Sys2Proof.Machine
end

