-- ==== Sys2Proof/Machine/Dispatch.lean ====
section
/-! DEFINITION. One arm per operation, in the opcode table's order (spec/30_encoding.md R68). -/

namespace Sys2Proof.Machine

def exec (i : Instr) (s : State) : Host.Outcome State Fault Refusal :=
  match i with
  | .reset => Sys2Proof.Machine.execReset s
  | .addrW => Sys2Proof.Machine.execAddrW s
  | .addrR => Sys2Proof.Machine.execAddrR s
  | .setpos b => Sys2Proof.Machine.execSetpos b s
  | .selpage b => Sys2Proof.Machine.execSelpage b s
  | .stFreq a b => Sys2Proof.Machine.execStFreq a b s
  | .stTcxoCoef a b => Sys2Proof.Machine.execStTcxoCoef a b s
  | .stTcxoTemp a b => Sys2Proof.Machine.execStTcxoTemp a b s
  | .stTcxoRmse b => Sys2Proof.Machine.execStTcxoRmse b s
  | .save b => Sys2Proof.Machine.execSave b s
  | .ign b => Sys2Proof.Machine.execIgn b s
  | .rxdrop b => Sys2Proof.Machine.execRxdrop b s
  | .txbyte => Sys2Proof.Machine.execTxbyte s
  | .txfill => Sys2Proof.Machine.execTxfill s
  | .stop => Sys2Proof.Machine.execStop s
  | .errAf => Sys2Proof.Machine.execErrAf s
  | .errBus => Sys2Proof.Machine.execErrBus s
  | .abort => Sys2Proof.Machine.execAbort s
  | .capture1 v => Sys2Proof.Machine.execCapture1 v s
  | .capture2 v => Sys2Proof.Machine.execCapture2 v s
  | .capture3 v => Sys2Proof.Machine.execCapture3 v s
  | .adc t v x => Sys2Proof.Machine.execAdc t v x s
  | .flashCommit d => Sys2Proof.Machine.execFlashCommit d s

end Sys2Proof.Machine
end

