-- ==== Sys2Proof/Machine/Schedule.lean ====
section
/-! DEFINITION. The schedule: which arrival a step takes, how an arrival is taken or waits, and how one is placed from
outside. The order of arrivals is free (R49, R158; log 1) but for the one liveness assumption of the spec: a commit that is
enabled must eventually run (R137; log 14). -/

namespace Sys2Proof.Machine

/-- What the decode word takes from the state (R67). -/
def State.ctx (s : State) : Ctx := ⟨s.st, s.cur, s.pos.setWidth 8⟩

/-- The pending commit may not be deferred any longer (R137): it is enabled and the patience is used up. -/
def State.commitDue (s : State) : Bool := s.commitEnabled && s.patience == 0

/-- The arrival of the free schedule: the commit when it is due, else any arrival. -/
def State.freeArrival (s : State) : Arrival :=
  if s.commitDue then ⟨.flashCommit (Config.commitDraws s.drawn), (Config.arrival s.drawn).inputs⟩
  else Config.arrival s.drawn

/-- The next arrival: the first one listed, or the free one. -/
def State.nextArrival (s : State) : Arrival :=
  match s.pending with
  | [] => s.freeArrival
  | a :: _ => a

/-- How many arrivals of the free schedule are used up once the next arrival has been taken. -/
def State.drawnAfter (s : State) : Nat :=
  match s.pending with
  | [] => s.drawn + 1
  | _ :: _ => s.drawn

/-- The patience once the next arrival has been taken: a listed arrival leaves it, a free one uses up one, and the due
commit draws a new one. -/
def State.patienceAfter (s : State) : Nat :=
  match s.pending with
  | [] => if s.commitDue then Config.commitPatience (s.drawn + 1) else s.patience - 1
  | _ :: _ => s.patience

/-- The state in which the operation of arrival `a` runs: `a` is taken, its inputs are sampled, no action is output yet. -/
def State.take (s : State) (a : Arrival) : State :=
  { s with inputs := a.inputs, out := none, pending := s.pending.tail, drawn := s.drawnAfter,
           patience := s.patienceAfter }

/-- The mask holds every source but reset (R156, R157): the arrival "is taken after it", so it stays first in line. -/
def State.hold (s : State) (a : Arrival) : State :=
  { s with out := none, pending := a :: s.pending.tail, drawn := s.drawnAfter, patience := s.patienceAfter }

/-- Whether an arrival waits for the mask to be cleared. -/
def State.held (s : State) (a : Arrival) : Bool := s.irqMask && a.event != .reset

/-- An event offered in a context, so that the very next step takes it and it is enabled: the context's `st`, `cur` and
`pos`, the mask clear, `listen` set for an address match (R80), `save` non-zero for a commit (R137). -/
def State.offer (s : State) (c : Ctx) (e : Event) : State :=
  let placed :=
    { s with st := c.st, cur := c.cur, pos := c.pos.setWidth 9, irqMask := false,
             listen := s.listen || e == .addrW || e == .addrR, pending := ⟨e, s.inputs⟩ :: s.pending }
  match e with
  | .flashCommit _ => if s.readLive 2 saveOffset = 0 then placed.writeLive 2 saveOffset 1 else placed
  | _ => placed

end Sys2Proof.Machine
end

