-- ==== Sys2Proof/Machine/Step.lean ====
section
/-! DEFINITION. One step: take the next arrival, decode it in the state's context, run its operation (spec/00_scope.md
R2, R6; spec/30_encoding.md R67). Every step is one atomic event. -/

namespace Sys2Proof.Machine

/-- One step of the engine. While interrupts are masked the arrival waits (R157); otherwise it is taken and the
operation it decodes to runs. -/
def step (s : State) : Host.Outcome State Fault Refusal :=
  if s.held s.nextArrival then .next (s.hold s.nextArrival)
  else exec (select s.ctx s.nextArrival.event) (s.take s.nextArrival)

/-- `s` with the instruction of an opcode-table word placed so that the very next step runs it: the word's event becomes
the next arrival and `st`, `cur`, `pos` become the word's (log 12). A word that is no event record places nothing. -/
def State.withFetchWord (s : State) (nbits w : Nat) : State :=
  match parse (tableBytes nbits w) with
  | .ok (c, e, _) => s.offer c e
  | .error _ => s

end Sys2Proof.Machine
end

