-- ==== Sys2Proof/Safety.lean ====
section
/-! DEFINITION. What holds of the engine at every step boundary after reset (spec/10_state.md R28, with R21, R25, R26,
R67 and the canonical form of the flash record): the invariant in whose terms the claims are stated. -/

namespace Sys2Proof.Machine

/-- The reserved bytes of a live page (R12, R13, R14): "reserved padding", zero, never written. -/
def reservedAt (p : BitVec 2) (i : Fin 32) : Bool :=
  (p == 1 && decide (16 ≤ i.val ∧ i.val ≤ 30)) || (p == 2 && decide (21 ≤ i.val ∧ i.val ≤ 30)) ||
    (p == 3 && decide (4 ≤ i.val ∧ i.val ≤ 30))

/-- The invariant of a running engine. -/
structure State.Inv (s : State) : Prop where
  /-- R28 (a): byte 31 of the snapshot is the current page's selector -/
  txSelector : s.tx[31] = s.cur.setWidth 8
  /-- R15, R28 (b): byte 31 of every live page is its selector -/
  liveSelector : ∀ p, s.readLive p 31 = p.setWidth 8
  /-- R22, R28 (c): interrupts are never masked at a step boundary -/
  unmasked : s.irqMask = false
  /-- R21 (D34): the engine always listens -/
  armed : s.listen = true
  /-- R20, R28 (e) -/
  txiRange : s.txi.toNat ≤ 32
  /-- R19, R28 (f) -/
  posRange : s.pos.toNat ≤ 256
  /-- R67: while data bytes are dispatched the cursor fits the decode word's eight bits -/
  posInData : s.st = .getData → s.pos.toNat ≤ 255
  /-- R28 (g): reserved bytes are zero -/
  liveReserved : ∀ p i, reservedAt p i = true → s.readLive p i = 0
  /-- R69: reserved bytes read as zero -/
  txReserved : ∀ i, reservedAt s.cur i = true → s.tx[i] = 0
  /-- R11, R26: the version byte -/
  version : s.readLive 0 versionOffset = Config.protocolVersion
  /-- R25: no rule produces a status above 3 -/
  statusRange : s.saveStatus.toNat ≤ 3
  /-- the flash record is in canonical form -/
  flashWf : Memory.wf s.flash = true

/-! ### The words in which frames are said -/

/-- The live pages, the transmit buffer and the flash record are as before. -/
def State.SameStores (s t : State) : Prop := t.live = s.live ∧ t.tx = s.tx ∧ t.flash = s.flash

/-- The page, the protocol state, both indices, the re-arm and the mask are as before. -/
def State.SameProtocol (s t : State) : Prop :=
  t.cur = s.cur ∧ t.st = s.st ∧ t.pos = s.pos ∧ t.txi = s.txi ∧ t.listen = s.listen ∧ t.irqMask = s.irqMask

/-- The sampled inputs and the schedule are as before: no operation writes them. -/
def State.SameSchedule (s t : State) : Prop :=
  t.inputs = s.inputs ∧ t.pending = s.pending ∧ t.drawn = s.drawn ∧ t.patience = s.patience

/-- The tail of a data byte (R83): the cursor moves on by one; past the whole-record size the transaction is dropped and
no byte is requested, else the state stays and the next byte is requested. -/
def State.TailDone (s t : State) : Prop :=
  t.pos = s.pos + 1 ∧
    (if 32 < (s.pos + 1).toNat then t.st = .dropData ∧ t.out = s.out else t.st = s.st ∧ t.out = some .requestRx)

/-- What a data byte's step leaves alone besides the live pages, the snapshot and `cur`. -/
def State.DataFrame (s t : State) : Prop :=
  t.txi = s.txi ∧ t.listen = s.listen ∧ t.flash = s.flash ∧ s.SameSchedule t

/-- The state with another page, protocol state, cursor and transmit index: what a device event must not depend on. -/
def State.withProtocol (s : State) (cur : BitVec 2) (st : Phase) (pos : BitVec 9) (txi : BitVec 6) : State :=
  { s with cur := cur, st := st, pos := pos, txi := txi }

/-- The state with another cursor: what a read must not depend on. -/
def State.withCursor (s : State) (pos : BitVec 9) : State := { s with pos := pos }

/-- The state with another transmit buffer: what everything but `TXBYTE` must not depend on. -/
def State.withTx (s : State) (x : Page) : State := { s with tx := x }

/-- The events that the bus peripheral delivers (R156, R168). -/
def fromBus : Event → Bool
  | .addrW => true
  | .addrR => true
  | .rxbyte _ => true
  | .txbyte => true
  | .stop => true
  | .errAf => true
  | .errBus => true
  | .abort => true
  | .reset => false
  | .capture1 _ => false
  | .capture2 _ => false
  | .capture3 _ => false
  | .adc _ _ _ => false
  | .flashCommit _ => false

/-- The complete next-state table of `st` (R89). -/
def State.nextPhase (s : State) : Event → Phase
  | .reset => .waiting
  | .addrW => .getAddr
  | .addrR => .sendData
  | .rxbyte _ =>
    match s.st with
    | .waiting => .waiting
    | .getAddr => .getData
    | .getData => if s.pos.toNat + 1 ≤ 32 then .getData else .dropData
    | .sendData => .sendData
    | .dropData => .dropData
  | .txbyte => s.st
  | .stop => .waiting
  | .errAf => .dropData
  | .errBus => .dropData
  | .abort => .dropData
  | .capture1 _ => s.st
  | .capture2 _ => s.st
  | .capture3 _ => s.st
  | .adc _ _ _ => s.st
  | .flashCommit _ => s.st

end Sys2Proof.Machine
end

