-- ==== Sys2Proof/Certificates/Slice0/Obligations.lean ====
section
/-! DEFINITION. The statements for the provers, one `def Obligations.<Name> : Prop` each. A docstring names the rule of
spec/ and, where the statement rests on a decision that the spec marks as its own, the decision (D<n>), or the log entry
of the model's own choice. -/

open Sys2Proof Sys2Proof.Machine

/-! ### Bus transactions (spec/40_bus_transactions.md) -/

/-- R80 (acceptance in every state: the spec's decision D21): while the engine listens, a write address match enters
`GET_ADDR`, requests one byte and leaves everything else. -/
def Obligations.AddrWriteRequestsOffset : Prop :=
  ∀ s : State, s.listen = true → select s.ctx .addrW = .addrW ∧
    ∃ t, exec .addrW s = .next t ∧ t.st = .getAddr ∧ t.out = some .requestRx ∧ s.SameStores t ∧ s.SameSchedule t ∧
      t.cur = s.cur ∧ t.pos = s.pos ∧ t.txi = s.txi ∧ t.listen = s.listen ∧ t.irqMask = s.irqMask

/-- R81 (D19, D21): while the engine listens, a read address match enters `SEND_DATA` at byte 0 of the old snapshot. -/
def Obligations.AddrReadStartsTransmission : Prop :=
  ∀ s : State, s.listen = true → select s.ctx .addrR = .addrR ∧
    ∃ t, exec .addrR s = .next t ∧ t.st = .sendData ∧ t.txi = 0 ∧ t.out = some .startTx ∧ s.SameStores t ∧
      s.SameSchedule t ∧ t.cur = s.cur ∧ t.pos = s.pos ∧ t.listen = s.listen ∧ t.irqMask = s.irqMask

/-- R80, R81: enabled "only while `listen = 1`"; that a match the engine is not armed for changes nothing is the model's
choice (log 9). -/
def Obligations.AddressMatchNeedsListening : Prop :=
  ∀ s : State, s.listen = false → exec .addrW s = .next s ∧ exec .addrR s = .next s

/-- R82: in `GET_ADDR` the first received byte sets the cursor, zero-extended and not range-checked, and the next byte is
requested. -/
def Obligations.OffsetByteSetsCursor : Prop :=
  ∀ (b : Byte) (s : State), (s.st = .getAddr → select s.ctx (.rxbyte b) = .setpos b) ∧
    ∃ t, exec (.setpos b) s = .next t ∧ t.pos.toNat = b.toNat ∧ t.st = .getData ∧ t.out = some .requestRx ∧
      s.SameStores t ∧ s.SameSchedule t ∧ t.cur = s.cur ∧ t.txi = s.txi ∧ t.listen = s.listen ∧ t.irqMask = s.irqMask

/-- R83 (D17, D18): whatever a data byte is dispatched to, its step advances the cursor by one, drops the rest of the
transaction once the cursor exceeds 32, and otherwise requests the next byte. -/
def Obligations.DataByteTailAdvancesThenDrops : Prop :=
  ∀ (s : State) (b : Byte) (x : Inputs) (rest : List Arrival),
    s.pending = ⟨.rxbyte b, x⟩ :: rest → s.irqMask = false → s.st = .getData → s.pos.toNat ≤ 255 →
    ∃ t, step s = .next t ∧ t.pos.toNat = s.pos.toNat + 1 ∧ t.pending = rest ∧
      (if 32 < s.pos.toNat + 1 then t.st = .dropData ∧ t.out = none else t.st = .getData ∧ t.out = some .requestRx)

/-- R85 (D19): byte `txi` of the snapshot while `txi < 32`, then zeros; `txi` saturates at 32; nothing else changes. -/
def Obligations.TransmitSendsSnapshotThenZeros : Prop :=
  ∀ s : State, (s.st = .sendData → select s.ctx .txbyte = .txbyte) ∧
    ∃ t, exec .txbyte s = .next t ∧
      (if h : s.txi.toNat < 32 then t.out = some (.byte s.tx[s.txi.toNat]) ∧ t.txi.toNat = s.txi.toNat + 1
       else t.out = some (.byte 0) ∧ t.txi = s.txi) ∧
      s.SameStores t ∧ s.SameSchedule t ∧ t.cur = s.cur ∧ t.st = s.st ∧ t.pos = s.pos ∧ t.listen = s.listen ∧
      t.irqMask = s.irqMask

/-- R88 (D22): a byte clocked out in any other state is the filler zero and changes nothing. -/
def Obligations.FillerByteElsewhere : Prop :=
  ∀ s : State, (s.st ≠ .sendData → select s.ctx .txbyte = .txfill) ∧
    ∃ t, exec .txfill s = .next t ∧ t.out = some (.byte 0) ∧ s.SameStores t ∧ s.SameProtocol t ∧ s.SameSchedule t

/-- R86 (D20): the end of a transaction returns to `WAITING` and re-arms listening; nothing is committed or undone. -/
def Obligations.StopReturnsToWaiting : Prop :=
  ∀ s : State, select s.ctx .stop = .stop ∧
    ∃ t, exec .stop s = .next t ∧ t.st = .waiting ∧ t.listen = true ∧ t.out = some .enableListen ∧ s.SameStores t ∧
      s.SameSchedule t ∧ t.cur = s.cur ∧ t.pos = s.pos ∧ t.txi = s.txi ∧ t.irqMask = s.irqMask

/-- R87 (D22): a received byte in `WAITING`, `SEND_DATA` or `DROP_DATA` changes nothing and asks for nothing. -/
def Obligations.ReceivedByteIsDropped : Prop :=
  ∀ (b : Byte) (s : State),
    ((s.st = .waiting ∨ s.st = .sendData ∨ s.st = .dropData) → select s.ctx (.rxbyte b) = .rxdrop b) ∧
      exec (.rxdrop b) s = .next s

/-- R89 (derived in the spec from R80 to R88 and R151 to R153): the complete next-state table, for every event and every
protocol state, while the engine listens unmasked with its cursor in range. -/
def Obligations.NextStateTable : Prop :=
  ∀ (s : State) (a : Arrival) (rest : List Arrival),
    s.pending = a :: rest → s.irqMask = false → s.listen = true → s.pos.toNat ≤ 256 →
    ∃ t, step s = .next t ∧ t.st = s.nextPhase a.event

/-! ### Register writes (spec/41_register_writes.md) -/

/-- R66, R101: a data byte at position 31 selects a page, and the value that ends up in `cur` and in byte 31 of the
snapshot is the effective selector, never the raw byte (byte 31 of every live page holding its selector, R15). -/
def Obligations.EffectiveSelectorIsRecorded : Prop :=
  ∀ (b : Byte) (s : State), (∀ p, s.readLive p 31 = p.setWidth 8) →
    (s.st = .getData → s.pos.toNat = 31 → select s.ctx (.rxbyte b) = .selpage b) ∧
    ∃ t, exec (.selpage b) s = .next t ∧
      (if b.toNat ≤ 3 then t.cur.toNat = b.toNat ∧ t.tx[31] = b else t.cur = 0 ∧ t.tx[31] = 0)

/-- R102, with the byte order of R5 and R43 (the spec's decisions D4, D5): page selection switches `cur`, refreshes
`tick_now` of page 1 or the raw counters of page 4, and leaves every other live byte; then the tail of R83. -/
def Obligations.SelectPageRefreshesPage : Prop :=
  ∀ (b : Byte) (s : State), (s.st = .getData → s.pos.toNat = 31 → select s.ctx (.rxbyte b) = .selpage b) ∧
    ∃ t, exec (.selpage b) s = .next t ∧ t.cur = (if b.toNat ≤ 3 then b.setWidth 2 else 0) ∧
      (∀ (q : BitVec 2) (j : Fin 32), t.readLive q j =
        if q = t.cur ∧ t.cur = 0 ∧ j.val < 4 then leByte s.inputs.tick32 j.val
        else if q = t.cur ∧ t.cur = 3 ∧ j.val < 2 then leByte s.inputs.cntLo j.val
        else if q = t.cur ∧ t.cur = 3 ∧ j.val < 4 then leByte s.inputs.cntHi (j.val - 2)
        else s.readLive q j) ∧
      s.TailDone t ∧ s.DataFrame t

/-- R103: the snapshot of a page selection is the whole live page as the selection leaves it, and the mask is clear again at
the end of the step. The second clause is the model's choice (log 10) for what R157 derives: a masked step that meets any
event but RESET, of the bus or of a device, leaves the stores and the protocol fields, so that no capture, ADC or commit
runs under the mask. -/
def Obligations.SnapshotIsTheLivePage : Prop :=
  (∀ (b : Byte) (s : State), ∃ t, exec (.selpage b) s = .next t ∧ (∀ i : Fin 32, t.tx[i] = t.readLive t.cur i) ∧
      t.irqMask = false) ∧
    ∀ (s : State) (a : Arrival) (rest : List Arrival), s.pending = a :: rest → s.irqMask = true →
      a.event ≠ .reset → ∃ t, step s = .next t ∧ s.SameStores t ∧ s.SameProtocol t

/-- R102, corner case: "`b = 4..255` behaves exactly as `b = 0`, including the `tick_now` refresh". -/
def Obligations.SelectorsAboveThreeActAsZero : Prop :=
  ∀ (b : Byte) (s : State), 3 < b.toNat → exec (.selpage b) s = exec (.selpage 0) s

/-- R46, with the limit of 90_conflicts.md C11: selecting the same page again, with nothing in between, gives the same
snapshot on pages 2 and 3, the same bytes 4..31 on every page, and the same snapshot wherever the inputs are unchanged. -/
def Obligations.ReselectingRepeatsTheSnapshot : Prop :=
  ∀ (b : Byte) (x : Inputs) (pos : BitVec 9) (s t : State), exec (.selpage b) s = .next t →
    ∃ u, exec (.selpage b) { t with inputs := x, pos := pos } = .next u ∧ u.cur = t.cur ∧
      (∀ i : Fin 32, 4 ≤ i.val ∨ t.cur = 1 ∨ t.cur = 2 ∨ x = s.inputs → u.tx[i] = t.tx[i])

/-- R105 (D1; the page condition: D24, log 8): on page 1 a byte at 26 or 27 is stored there in the live image and
nowhere else. -/
def Obligations.FrequencyByteIsStored : Prop :=
  ∀ (a : BitVec 1) (b : Byte) (s : State),
    (s.st = .getData → s.cur = 0 → s.pos.toNat = 26 + a.toNat → select s.ctx (.rxbyte b) = .stFreq a b) ∧
      ∃ t, exec (.stFreq a b) s = .next t ∧
        (∀ (q : BitVec 2) (j : Fin 32), t.readLive q j = if q = 0 ∧ j.val = 26 + a.toNat then b else s.readLive q j) ∧
        t.tx = s.tx ∧ t.cur = s.cur ∧ t.irqMask = s.irqMask ∧ s.TailDone t ∧ s.DataFrame t

/-- R106 (its tail: R83 with D17, D18): on page 3 a byte at positions 0..18 (rows 7, 8 and 9) is stored there in the live image and nowhere else: not in
the snapshot, not in the flash record, not in the trigger. -/
def Obligations.CalibrationByteIsStored : Prop :=
  ∀ (b : Byte) (s : State),
    (∀ (i : Instr) (n : Nat),
      ((∃ a, i = .stTcxoCoef a b ∧ n = a.toNat) ∨ (∃ a, i = .stTcxoTemp a b ∧ n = 16 + a.toNat) ∨
        (i = .stTcxoRmse b ∧ n = 18)) →
      (s.st = .getData → s.cur = 2 → s.pos.toNat = n → select s.ctx (.rxbyte b) = i) ∧
        ∃ t, exec i s = .next t ∧
          (∀ (q : BitVec 2) (j : Fin 32), t.readLive q j = if q = 2 ∧ j.val = n then b else s.readLive q j) ∧
          t.tx = s.tx ∧ t.cur = s.cur ∧ t.irqMask = s.irqMask ∧ s.TailDone t ∧ s.DataFrame t)

/-- R107 (D12): on page 3 a non-zero byte at 19 becomes the pending mark, a zero changes no live byte; `save_status` and
the flash record are untouched. -/
def Obligations.TriggerByteArmsCommit : Prop :=
  ∀ (b : Byte) (s : State),
    (s.st = .getData → s.cur = 2 → s.pos.toNat = 19 → select s.ctx (.rxbyte b) = .save b) ∧
      ∃ t, exec (.save b) s = .next t ∧
        (∀ (q : BitVec 2) (j : Fin 32),
          t.readLive q j = if q = 2 ∧ j.val = 19 ∧ b ≠ 0 then b else s.readLive q j) ∧
        t.tx = s.tx ∧ t.cur = s.cur ∧ t.irqMask = s.irqMask ∧ s.TailDone t ∧ s.DataFrame t

/-- R108 (its tail: R83 with D17, D18; page condition: D24): every position that rows 5 to 10 do not match is ignored: the cursor arithmetic of R83 and nothing else. -/
def Obligations.IgnoredByteOnlyMovesCursor : Prop :=
  ∀ (b : Byte) (s : State),
    (s.st = .getData → s.pos.toNat ≤ 255 →
      (select s.ctx (.rxbyte b) = .ign b ↔
        ¬ s.pos.toNat = 31 ∧ ¬ (s.cur = 0 ∧ (s.pos.toNat = 26 ∨ s.pos.toNat = 27)) ∧
          ¬ (s.cur = 2 ∧ s.pos.toNat ≤ 19))) ∧
      ∃ t, exec (.ign b) s = .next t ∧ s.SameStores t ∧ t.cur = s.cur ∧ t.irqMask = s.irqMask ∧ s.TailDone t ∧
        s.DataFrame t

/-- R162 (derived in the spec; with R47, R48; offsets D1, page condition D24): an event of the bus changes a live byte only
as a byte received in `GET_DATA`: the byte at the cursor itself, which is then `src_freq` of page 1 or one of 0..19 of page
3 while that page is current and holds the received byte, or, at position 31, a byte that the selection of page 1 or page 4
refreshes. The cursor fits the decode word in `GET_DATA` (R67, a field of the invariant). -/
def Obligations.HostStoresOnlyItsFields : Prop :=
  ∀ (s : State) (a : Arrival) (rest : List Arrival),
    s.pending = a :: rest → s.irqMask = false → fromBus a.event = true → (s.st = .getData → s.pos.toNat ≤ 255) →
    ∃ t, step s = .next t ∧ t.flash = s.flash ∧
      ∀ (q : BitVec 2) (j : Fin 32), t.readLive q j ≠ s.readLive q j →
        ∃ b, a.event = .rxbyte b ∧ s.st = .getData ∧
          ((q = 0 ∧ (j = 26 ∨ j = 27) ∧ s.cur = 0 ∧ s.pos.toNat = j.val ∧ t.readLive q j = b) ∨
            (q = 2 ∧ j.val ≤ 19 ∧ s.cur = 2 ∧ s.pos.toNat = j.val ∧ t.readLive q j = b) ∨
            (s.pos.toNat = 31 ∧ (q = 0 ∨ q = 3) ∧ j.val < 4 ∧ q = (if b.toNat ≤ 3 then b.setWidth 2 else 0)))

/-! ### Capture and ADC (spec/42_capture_and_sampling.md) -/

/-- R121, R124 (D7, D8; byte order D5): a capture of channel 1 stores its entry at 8..13 and the tick at 4..7 of live page
1, and changes nothing else. -/
def Obligations.CaptureOneWritesEntryAndTick : Prop :=
  ∀ (v : Half) (s : State), select s.ctx (.capture1 v) = .capture1 v ∧
    ∃ t, exec (.capture1 v) s = .next t ∧
      (∀ (q : BitVec 2) (j : Fin 32), t.readLive q j =
        if q = 0 ∧ 4 ≤ j.val ∧ j.val < 8 then leByte s.inputs.tick32 (j.val - 4)
        else if q = 0 ∧ 8 ≤ j.val ∧ j.val < 10 then leByte s.inputs.cntLo (j.val - 8)
        else if q = 0 ∧ 10 ≤ j.val ∧ j.val < 12 then leByte s.inputs.cntHi (j.val - 10)
        else if q = 0 ∧ 12 ≤ j.val ∧ j.val < 14 then leByte v (j.val - 12)
        else s.readLive q j) ∧
      t.tx = s.tx ∧ t.flash = s.flash ∧ t.out = s.out ∧ s.SameProtocol t ∧ s.SameSchedule t

/-- R122, R124, R125 (D7, D8, D9; byte order D5): a capture of channel 2 stores its entry at 14..19 and advances `roll[0]`
modulo 2^8, and changes nothing else. -/
def Obligations.CaptureTwoWritesEntryAndCounts : Prop :=
  ∀ (v : Half) (s : State), select s.ctx (.capture2 v) = .capture2 v ∧
    ∃ t, exec (.capture2 v) s = .next t ∧ (t.readLive 0 28).toNat = ((s.readLive 0 28).toNat + 1) % 256 ∧
      (∀ (q : BitVec 2) (j : Fin 32), ¬ (q = 0 ∧ j = 28) → t.readLive q j =
        if q = 0 ∧ 14 ≤ j.val ∧ j.val < 16 then leByte s.inputs.cntLo (j.val - 14)
        else if q = 0 ∧ 16 ≤ j.val ∧ j.val < 18 then leByte s.inputs.cntHi (j.val - 16)
        else if q = 0 ∧ 18 ≤ j.val ∧ j.val < 20 then leByte v (j.val - 18)
        else s.readLive q j) ∧
      t.tx = s.tx ∧ t.flash = s.flash ∧ t.out = s.out ∧ s.SameProtocol t ∧ s.SameSchedule t

/-- R123, R124, R125 (D7, D8, D9; byte order D5): a capture of channel 3 stores its entry at 20..25 and advances `roll[1]`
modulo 2^8, and changes nothing else. -/
def Obligations.CaptureThreeWritesEntryAndCounts : Prop :=
  ∀ (v : Half) (s : State), select s.ctx (.capture3 v) = .capture3 v ∧
    ∃ t, exec (.capture3 v) s = .next t ∧ (t.readLive 0 29).toNat = ((s.readLive 0 29).toNat + 1) % 256 ∧
      (∀ (q : BitVec 2) (j : Fin 32), ¬ (q = 0 ∧ j = 29) → t.readLive q j =
        if q = 0 ∧ 20 ≤ j.val ∧ j.val < 22 then leByte s.inputs.cntLo (j.val - 20)
        else if q = 0 ∧ 22 ≤ j.val ∧ j.val < 24 then leByte s.inputs.cntHi (j.val - 22)
        else if q = 0 ∧ 24 ≤ j.val ∧ j.val < 26 then leByte v (j.val - 24)
        else s.readLive q j) ∧
      t.tx = s.tx ∧ t.flash = s.flash ∧ t.out = s.out ∧ s.SameProtocol t ∧ s.SameSchedule t

/-- R126 (D2, D10; byte order D5): a set of ADC codes and its tick fill bytes 0..9 of live page 2, and nothing else
changes. -/
def Obligations.AdcSampleFillsPageTwo : Prop :=
  ∀ (c v x : Half) (s : State), select s.ctx (.adc c v x) = .adc c v x ∧
    ∃ t, exec (.adc c v x) s = .next t ∧
      (∀ (q : BitVec 2) (j : Fin 32), t.readLive q j =
        if q = 1 ∧ j.val < 4 then leByte s.inputs.tick32 j.val
        else if q = 1 ∧ 4 ≤ j.val ∧ j.val < 6 then leByte c (j.val - 4)
        else if q = 1 ∧ 6 ≤ j.val ∧ j.val < 8 then leByte v (j.val - 6)
        else if q = 1 ∧ 8 ≤ j.val ∧ j.val < 10 then leByte x (j.val - 8)
        else s.readLive q j) ∧
      t.tx = s.tx ∧ t.flash = s.flash ∧ t.out = s.out ∧ s.SameProtocol t ∧ s.SameSchedule t

/-- R48 ("Device events are not subject to `cur`") and R89 (they never change `st`): a capture, an ADC sample or a commit
does the same whatever the page, the protocol state, the cursor and the transmit index are, and leaves those four. -/
def Obligations.DeviceEventsIgnoreTheProtocol : Prop :=
  ∀ (i : Instr) (s : State) (cur : BitVec 2) (st : Phase) (pos : BitVec 9) (txi : BitVec 6),
    ((∃ v, i = .capture1 v ∨ i = .capture2 v ∨ i = .capture3 v) ∨ (∃ c v x, i = .adc c v x) ∨
      ∃ d, i = .flashCommit d) →
    ∃ t, exec i s = .next t ∧ t.cur = s.cur ∧ t.st = s.st ∧ t.pos = s.pos ∧ t.txi = s.txi ∧
      exec i (s.withProtocol cur st pos txi) = .next (t.withProtocol cur st pos txi)

/-! ### The flash store (spec/43_flash_store.md) -/

/-- R137: a commit that is not enabled (no save pending, or interrupts masked) has none of its effect; that the model
then answers the unchanged state is its own choice (log 9). -/
def Obligations.DisabledCommitDoesNothing : Prop :=
  ∀ (d : FlashDraws) (s : State), (s.saveByte = 0 ∨ s.irqMask = true) → exec (.flashCommit d) s = .next s

/-- R138, R154 (codes: D11): when the erase fails the record is unchanged, the status is the erase-failure code 2, the
trigger is consumed and nothing else changes. -/
def Obligations.CommitEraseFailureKeepsRecord : Prop :=
  ∀ (d : FlashDraws) (s : State), s.saveByte ≠ 0 → s.irqMask = false → d.eraseOk = false →
    ∃ t, exec (.flashCommit d) s = .next t ∧ t.flash = s.flash ∧
      (∀ (q : BitVec 2) (j : Fin 32), t.readLive q j =
        if q = 2 ∧ j.val = 19 then 0 else if q = 2 ∧ j.val = 20 then 2 else s.readLive q j) ∧
      t.tx = s.tx ∧ t.out = s.out ∧ s.SameProtocol t ∧ s.SameSchedule t

/-- R138, R154 (D11, D14, D15, D16): after a successful erase, units are programmed in ascending order up to the first
failure: a unit before it holds page 3's bytes and the pad byte 0, the failed unit its drawn bytes, a later unit 0xFF;
the status is 1 on full success and else 3, the trigger is consumed and nothing else changes. That the failed unit's drawn
bytes stand most significant first is the model's choice (log 13): neither R138 nor D16 gives an order. -/
def Obligations.CommitWritesRecordUnitByUnit : Prop :=
  ∀ (d : FlashDraws) (s : State), s.saveByte ≠ 0 → s.irqMask = false → d.eraseOk = true →
    ∃ t, exec (.flashCommit d) s = .next t ∧
      (∀ (k : Fin 5) (x : Fin 4) (i : Fin 20), i.val = 4 * k.val + x.val → t.readFlash i =
        if ∀ j : Fin 5, j.val ≤ k.val → d.progOk[j] = true then
          if h : i.val < 19 then s.readLive 2 ⟨i.val, Nat.lt_trans h (by decide)⟩ else 0
        else if ∀ j : Fin 5, j.val < k.val → d.progOk[j] = true then beByte d.junk[k] x.val
        else 0xFF) ∧
      (∀ (q : BitVec 2) (j : Fin 32), t.readLive q j =
        if q = 2 ∧ j.val = 19 then 0
        else if q = 2 ∧ j.val = 20 then (if ∀ k : Fin 5, d.progOk[k] = true then 1 else 3)
        else s.readLive q j) ∧
      t.tx = s.tx ∧ t.out = s.out ∧ s.SameProtocol t ∧ s.SameSchedule t

/-- R23, R138, R180: only a commit changes the flash record; reset keeps it. -/
def Obligations.FlashWrittenOnlyByCommit : Prop :=
  ∀ (i : Instr) (s t : State), exec i s = .next t → t.flash ≠ s.flash → ∃ d, i = .flashCommit d

/-- R25, R141 (D36): `save_status` changes only in a commit and at reset. -/
def Obligations.SaveStatusWrittenOnlyByCommit : Prop :=
  ∀ (i : Instr) (s t : State), exec i s = .next t → t.saveStatus ≠ s.saveStatus →
    i = .reset ∨ ∃ d, i = .flashCommit d

/-- R25 (D12): `save` becomes non-zero only by a host write of that byte, and zero only by a commit or reset. -/
def Obligations.TriggerSetByHostClearedByCommit : Prop :=
  ∀ (i : Instr) (s t : State), exec i s = .next t → t.saveByte ≠ s.saveByte →
    (t.saveByte ≠ 0 ∧ i = .save t.saveByte) ∨ (t.saveByte = 0 ∧ (i = .reset ∨ ∃ d, i = .flashCommit d))

/-- R192 (derived in the spec from R136 and R138; log 15): power lost after the erase and the first `k` programs leaves a
record that the next reset loads as it is, with the status saying nothing: the commit whose program `k` fails on an
erased unit, followed by reset. -/
def Obligations.PowerLossDuringCommitIsSilent : Prop :=
  ∀ (d : FlashDraws) (k : Fin 5) (s : State), s.saveByte ≠ 0 → s.irqMask = false → d.eraseOk = true →
    (∀ j : Fin 5, j.val < k.val → d.progOk[j] = true) → d.progOk[k] = false → d.junk[k] = 0xFFFFFFFF →
    ∃ t u, exec (.flashCommit d) s = .next t ∧ exec .reset t = .next u ∧
      (∀ i : Fin 20, u.readFlash i = if i.val < 4 * k.val then s.commitByte i else 0xFF) ∧
      (∀ j : Fin 19, u.readLive 2 ⟨j.val, Nat.lt_trans j.isLt (by decide)⟩ =
        u.readFlash ⟨j.val, Nat.lt_trans j.isLt (by decide)⟩) ∧
      u.saveStatus = 0 ∧ u.saveByte = 0

/-! ### Errors (spec/60_exceptions.md) -/

/-- R151: an address-nack-class error forces `DROP_DATA`; listening is not re-armed, no action is output, and nothing else
changes. -/
def Obligations.AddressNackDropsWithoutRearm : Prop :=
  ∀ s : State, select s.ctx .errAf = .errAf ∧
    ∃ t, exec .errAf s = .next t ∧ t.st = .dropData ∧ t.listen = s.listen ∧ t.out = s.out ∧ s.SameStores t ∧
      s.SameSchedule t ∧ t.cur = s.cur ∧ t.pos = s.pos ∧ t.txi = s.txi ∧ t.irqMask = s.irqMask

/-- R152 (D23): any other bus error forces `DROP_DATA` and re-arms listening; nothing else changes. -/
def Obligations.BusErrorDropsAndRearms : Prop :=
  ∀ s : State, select s.ctx .errBus = .errBus ∧
    ∃ t, exec .errBus s = .next t ∧ t.st = .dropData ∧ t.listen = true ∧ t.out = some .enableListen ∧ s.SameStores t ∧
      s.SameSchedule t ∧ t.cur = s.cur ∧ t.pos = s.pos ∧ t.txi = s.txi ∧ t.irqMask = s.irqMask

/-- R153 (D38): a transfer abort forces `DROP_DATA` and re-arms listening; nothing else changes. -/
def Obligations.AbortDropsAndRearms : Prop :=
  ∀ s : State, select s.ctx .abort = .abort ∧
    ∃ t, exec .abort s = .next t ∧ t.st = .dropData ∧ t.listen = true ∧ t.out = some .enableListen ∧ s.SameStores t ∧
      s.SameSchedule t ∧ t.cur = s.cur ∧ t.pos = s.pos ∧ t.txi = s.txi ∧ t.irqMask = s.irqMask

/-- R157 (derived in the spec from R22 and R103): a masked event is not lost; that it stays first in line and the step
changes nothing else is the model's choice for a state that no run reaches (log 10). -/
def Obligations.MaskedArrivalWaits : Prop :=
  ∀ (s : State) (a : Arrival) (rest : List Arrival), s.pending = a :: rest → s.irqMask = true → a.event ≠ .reset →
    step s = .next { s with out := none }

/-- R171: "A model has no halt, no wait-for-interrupt and no end of run for the engine": every step answers a next state. -/
def Obligations.StepAlwaysAnswersNext : Prop := ∀ s : State, ∃ t, step s = .next t

/-! ### Reset (spec/70_reset_and_hazards.md) -/

/-- R180 with R29 (D10, D26, D33; byte order D5): from any state, reset leaves every byte of the four pages, the snapshot
and the protocol state at the value of the table, samples `TICK32`, loads page 3 from the flash record and keeps it. Two things are the model's choice: the sampled inputs and
the schedule (`pending`, `drawn`, `patience`) stay (log 1, 2, 14), and the version and the factory constants are the same
from every state (log 4, 5). -/
def Obligations.ResetEstablishesTable : Prop :=
  ∀ s : State, select s.ctx .reset = .reset ∧
    ∃ t, exec .reset s = .next t ∧
      (∀ j : Fin 32, t.readLive 0 j =
        if j.val < 4 then leByte s.inputs.tick32 j.val else if j.val = 30 then Config.protocolVersion else 0) ∧
      (∀ (c : Fin 3) (k : Fin 2) (j : Fin 32), j.val = 10 + 2 * c.val + k.val →
        t.readLive 1 j = leByte (Config.cal c) k.val) ∧
      (∀ j : Fin 32, j.val < 10 ∨ 16 ≤ j.val → t.readLive 1 j = if j.val = 31 then 1 else 0) ∧
      (∀ j : Fin 32, t.readLive 2 j =
        if h : j.val < 19 then s.readFlash ⟨j.val, Nat.lt_trans h (by decide)⟩ else if j.val = 31 then 2 else 0) ∧
      (∀ j : Fin 32, t.readLive 3 j = if j.val = 31 then 3 else 0) ∧
      (∀ j : Fin 32, t.tx[j] = t.readLive 0 j) ∧
      t.cur = 0 ∧ t.st = .waiting ∧ t.pos = 0 ∧ t.txi = 0 ∧ t.listen = true ∧ t.irqMask = false ∧ t.flash = s.flash ∧
      t.out = some .enableListen ∧ s.SameSchedule t

/-- R29, R180: `State.reset` is what the reset sequence leaves on a device whose record was never programmed (0xFF each by
D15; log 7), with the inputs that `Config.resetInputs` names (log 2) and the action held as log 3 says. Two things are the
model's choice: the schedule (`pending`, `drawn`, `patience`) stays (log 1, 14), and the version and the factory constants
are the same from every state (D10; log 4, 5). -/
def Obligations.ResetStateIsTheSequenceResult : Prop :=
  ∀ s : State, s.flash = [] → s.inputs = Config.resetInputs →
    exec .reset s = .next { State.reset with pending := s.pending, drawn := s.drawn, patience := s.patience }

/-- R29: every field of `State.reset` that the reset table lists holds its value: all bytes of the four pages, the snapshot
equal to page 1, the protocol fields, and the flash record (blank by D15 and log 7; the reset's sample: log 2;
the constants: D10, log 4, 5). -/
def Obligations.ResetStateHoldsTheTable : Prop :=
  (∀ j : Fin 32, State.reset.readLive 0 j =
      if j.val < 4 then leByte State.reset.inputs.tick32 j.val
      else if j.val = 30 then Config.protocolVersion else 0) ∧
    (∀ (c : Fin 3) (k : Fin 2) (j : Fin 32), j.val = 10 + 2 * c.val + k.val →
      State.reset.readLive 1 j = leByte (Config.cal c) k.val) ∧
    (∀ j : Fin 32, j.val < 10 ∨ 16 ≤ j.val → State.reset.readLive 1 j = if j.val = 31 then 1 else 0) ∧
    (∀ j : Fin 32, State.reset.readLive 2 j = if j.val < 19 then 0xFF else if j.val = 31 then 2 else 0) ∧
    (∀ j : Fin 32, State.reset.readLive 3 j = if j.val = 31 then 3 else 0) ∧
    State.reset.tx = State.reset.page 0 ∧ State.reset.cur = 0 ∧ State.reset.st = .waiting ∧ State.reset.pos = 0 ∧
    State.reset.txi = 0 ∧ State.reset.listen = true ∧ State.reset.irqMask = false ∧
    ∀ i : Fin 20, State.reset.readFlash i = 0xFF

/-! ### The whole machine -/

/-- R28 (derived in the spec from R15, R102, R103, R180), with R21, R25, R69 and the canonical form of the flash record:
the invariant holds right after reset. -/
def Obligations.InvariantAtReset : Prop := State.reset.Inv

/-- R28, "at every step boundary": every step keeps the invariant, from every state that has it. -/
def Obligations.InvariantKeptByStep : Prop := ∀ s t : State, s.Inv → step s = .next t → t.Inv

/-- R16: the transmit buffer is written only by the snapshot of a page selection or reset, which leaves it equal to the
current page, and read only by `TXBYTE`: for every other operation its content makes no difference to anything else. -/
def Obligations.TransmitBufferWrittenAndReadOnlyThere : Prop :=
  (∀ (i : Instr) (s t : State), exec i s = .next t → t.tx ≠ s.tx → i = .reset ∨ ∃ b, i = .selpage b) ∧
    (∀ (i : Instr) (s : State), (i = .reset ∨ ∃ b, i = .selpage b) →
      ∃ t, exec i s = .next t ∧ ∀ j : Fin 32, t.tx[j] = t.readLive t.cur j) ∧
    ∀ (i : Instr) (s : State) (x : Page), i ≠ .txbyte →
      ∃ t u, exec i s = .next t ∧ exec i (s.withTx x) = .next u ∧ u.withTx t.tx = t

/-- R17: `cur` is written only by a page selection and reset. -/
def Obligations.CurrentPageWrittenOnlyBySelection : Prop :=
  ∀ (i : Instr) (s t : State), exec i s = .next t → t.cur ≠ s.cur → i = .reset ∨ ∃ b, i = .selpage b

/-- R84 (D19): no read depends on the cursor: the same reads from any cursor give the same bytes. -/
def Obligations.CursorDoesNotMoveReads : Prop :=
  ∀ (i : Instr) (s : State) (pos : BitVec 9), (i = .addrR ∨ i = .txbyte ∨ i = .txfill) →
    ∃ t, exec i s = .next t ∧ exec i (s.withCursor pos) = .next (t.withCursor pos)

/-- R63, R85 (D19): in a read transaction of any length, each byte under inputs of its own (R24), byte number `n` is `TX[n]`
for `n` up to 31 and zero from 32 on, and the read leaves the snapshot, the live pages and the current page as they were
(R46). -/
def Obligations.ReadTransactionReturnsSnapshot : Prop :=
  ∀ (n : Nat) (xs : List Inputs) (s : State) (x : Inputs) (rest : List Arrival), xs.length = n + 1 →
    s.pending = ⟨.addrR, x⟩ :: (xs.map (fun y => (⟨.txbyte, y⟩ : Arrival)) ++ rest) → s.irqMask = false →
    s.listen = true →
    ∃ t, Host.Core.run Sys2Proof.core (n + 2) s = .next t ∧
      t.out = some (.byte (if h : n < 32 then s.tx[n] else 0)) ∧ t.st = .sendData ∧ t.tx = s.tx ∧ t.live = s.live ∧
      t.cur = s.cur ∧ t.pending = rest

/-- R62, R83, R106 (D17, D18): the data bytes of a write on page 3 that stays below the trigger, each under inputs of its own
(R24), land at consecutive offsets from the cursor, in order, and no other live byte and no byte of the snapshot
changes. -/
def Obligations.CalibrationWriteLandsInOrder : Prop :=
  ∀ (ds : List (Byte × Inputs)) (s : State) (rest : List Arrival),
    s.pending = ds.map (fun d => (⟨.rxbyte d.1, d.2⟩ : Arrival)) ++ rest → s.irqMask = false → s.st = .getData →
    s.cur = 2 → s.pos.toNat + ds.length ≤ 19 →
    ∃ t, Host.Core.run Sys2Proof.core ds.length s = .next t ∧ t.st = .getData ∧
      t.pos.toNat = s.pos.toNat + ds.length ∧ t.tx = s.tx ∧ t.flash = s.flash ∧ t.pending = rest ∧
      ∀ (q : BitVec 2) (j : Fin 32), t.readLive q j =
        if h : q = 2 ∧ s.pos.toNat ≤ j.val ∧ j.val < s.pos.toNat + ds.length then (ds[j.val - s.pos.toNat]'(by omega)).1
        else s.readLive q j

/-- R28 (a), R63, R101, R102 (D19, D25): the selector round trip (95_test_vectors.md S1): from any running state, selecting
with `v` and reading 32 bytes, each event under inputs of its own (R24), returns the effective selector as byte 31. -/
def Obligations.SelectThenReadReturnsSelector : Prop :=
  ∀ (s : State) (v : Byte) (x1 x2 x3 x4 x5 : Inputs) (xs : List Inputs) (rest : List Arrival), s.Inv →
    xs.length = 32 →
    s.pending = [⟨.addrW, x1⟩, ⟨.rxbyte 31, x2⟩, ⟨.rxbyte v, x3⟩, ⟨.stop, x4⟩, ⟨.addrR, x5⟩] ++
      (xs.map (fun y => (⟨.txbyte, y⟩ : Arrival)) ++ rest) →
    ∃ t, Host.Core.run Sys2Proof.core 37 s = .next t ∧ t.out = some (.byte (if v.toNat ≤ 3 then v else 0)) ∧
      t.pending = rest

/-! ### Decoding (spec/30_encoding.md) -/

/-- R60, R67, R68: decoding the record of an operation, in any context that admits it and with every operand at every
value, gives the operation back and leaves the bytes after it (the record's layout is the model's, log 11). -/
def Obligations.DecodeEncodeRoundTrip : Prop :=
  ∀ (c : Ctx) (i : Instr) (rest : List Byte), i.wf c = true → decode (encode c i ++ rest) = .ok (i, rest)

/-- The other direction: whatever the decoder accepts is the record of the operation it answers, in a context that admits
it (log 11). -/
def Obligations.DecodedBytesAreARecord : Prop :=
  ∀ (bs rest : List Byte) (i : Instr), decode bs = .ok (i, rest) →
    ∃ c : Ctx, i.wf c = true ∧ bs = encode c i ++ rest

/-- R67, R68 (D31, D37): "matched in order and the first match wins": the operation of an event in a context is the one of
the first row of the opcode table that matches its decode word. -/
def Obligations.DecodeFollowsOpcodeTable : Prop :=
  ∀ (c : Ctx) (e : Event), firstRow (decodeWord c e) = some (select c e).row

/-- R100 (the page condition of case (b): D24): a data byte is dispatched by the rule's chain of tests. -/
def Obligations.DataByteDispatchChain : Prop :=
  ∀ (c : Ctx) (b : Byte), c.st = .getData →
    (select c (.rxbyte b)).row =
      if c.pos.toNat = 31 then 5
      else if 32 ≤ c.pos.toNat then 11
      else if c.cur = 0 ∧ (c.pos.toNat = 26 ∨ c.pos.toNat = 27) then 6
      else if c.cur = 2 ∧ c.pos.toNat ≤ 18 then (if c.pos.toNat ≤ 15 then 7 else if c.pos.toNat ≤ 17 then 8 else 9)
      else if c.cur = 2 ∧ c.pos.toNat = 19 then 10
      else 11

/-- R60 ("no such event") and R67 ("no such state"): event codes 14 and 15 and state codes 5, 6 and 7 are refused by name
(that the state is looked at first: log 16). -/
def Obligations.ReservedCodesAreRefused : Prop :=
  ∀ (w : BitVec 17) (ops : List Byte),
    (5 ≤ (w.extractLsb' 10 3).toNat →
      decode (decodeWordBytes w ++ ops) = .error (.noSuchState (w.extractLsb' 10 3))) ∧
    ((w.extractLsb' 10 3).toNat ≤ 4 → 14 ≤ (w.extractLsb' 13 4).toNat →
      decode (decodeWordBytes w ++ ops) = .error (.noSuchEvent (w.extractLsb' 13 4)))

/-- Decode words written out from R67, those of 95_test_vectors.md part 3 but for RESET and ADC, which its programs do not
have, decode to the operations they stand for, at least one of each of the table's formats and of each spec file's family.
That a record is the word's three bytes, least significant first, and then the operands is the model's choice (log 11). -/
def Obligations.WrittenOutWordsDecode : Prop :=
  decode [0x07, 0x0B, 0x00] = .ok (.reset, []) ∧
    decode [0x00, 0x20, 0x00] = .ok (.addrW, []) ∧
    decode [0x00, 0x64, 0x00, 0x1F] = .ok (.setpos 0x1F, []) ∧
    decode [0x1F, 0x68, 0x00, 0x02] = .ok (.selpage 0x02, []) ∧
    decode [0x1B, 0x68, 0x00, 0xBB] = .ok (.stFreq 1 0xBB, []) ∧
    decode [0x12, 0x6A, 0x00, 0x05] = .ok (.stTcxoRmse 0x05, []) ∧
    decode [0x13, 0x6A, 0x00, 0x01] = .ok (.save 0x01, []) ∧
    decode [0x20, 0x8E, 0x00] = .ok (.txbyte, []) ∧
    decode [0x20, 0xAA, 0x00] = .ok (.stop, []) ∧
    decode [0x02, 0x0E, 0x01] = .ok (.abort, []) ∧
    decode [0x20, 0x20, 0x01, 0xE8, 0xFD] = .ok (.capture1 0xFDE8, []) ∧
    decode [0x00, 0x80, 0x01, 0xA0, 0x06, 0xF0, 0x05, 0x00, 0x08] = .ok (.adc 0x06A0 0x05F0 0x0800, []) ∧
    decode [0x14, 0xA2, 0x01, 0x3F, 0, 0, 0, 0, 0, 0, 0, 0, 0, 0, 0, 0, 0, 0, 0, 0, 0, 0, 0, 0] =
      .ok (.flashCommit ⟨true, #v[true, true, true, true, true], #v[0, 0, 0, 0, 0]⟩, [])

/-- R2, R6, R67: one step takes the first arrival and runs the operation that its record decodes to in the state's
context, with the arrival's inputs sampled, no action output yet and the arrival gone from the schedule (log 1, 2, 3). That a RESET runs also in a masked state, which
no run reaches, is the model's choice (log 10). -/
def Obligations.StepRunsTheDecodedOperation : Prop :=
  ∀ (s : State) (a : Arrival) (rest : List Arrival) (i : Instr), s.pending = a :: rest →
    (s.irqMask = false ∨ a.event = .reset) → decode (encodeEvent s.ctx a.event) = .ok (i, []) →
    step s = exec i { s with inputs := a.inputs, out := none, pending := rest }

/-- R49, R158 (D30; log 1): with no arrival listed the step takes the free one, whatever it is, and uses it up; but where an
enabled commit has no patience left (R137; log 14), the step takes that commit, its outcomes free, and draws a new
patience. The inputs and the action are held as log 2 and 3 say. -/
def Obligations.StepTakesTheFreeArrival : Prop :=
  ∀ s : State, s.pending = [] → s.irqMask = false →
    ((s.saveByte = 0 ∨ s.patience ≠ 0) → step s = exec (select s.ctx (Config.arrival s.drawn).event)
      { s with inputs := (Config.arrival s.drawn).inputs, out := none, drawn := s.drawn + 1,
               patience := s.patience - 1 }) ∧
    (s.saveByte ≠ 0 → s.patience = 0 → step s = exec (.flashCommit (Config.commitDraws s.drawn))
      { s with inputs := (Config.arrival s.drawn).inputs, out := none, drawn := s.drawn + 1,
               patience := Config.commitPatience (s.drawn + 1) })

/-- R137 (D13; the patience: log 14), "it must eventually run (weak fairness), since nothing else clears the trigger": from
every running state with a save pending, the engine's own steps reach a step that runs a commit and clears the trigger,
unless a reset clears it first; until then the save stays pending. The bound is the schedule's length and the patience,
both any number, and none of the spec's. -/
def Obligations.PendingSaveEventuallyCommits : Prop :=
  ∀ s : State, s.Inv → s.saveByte ≠ 0 →
    ∃ (n : Nat) (u t : State), n ≤ s.pending.length + s.patience ∧
      (∀ k, k ≤ n → ∃ v : State, Host.Core.run Sys2Proof.core k s = .next v ∧ v.saveByte ≠ 0) ∧
      Host.Core.run Sys2Proof.core n s = .next u ∧ step u = .next t ∧ t.saveByte = 0 ∧
      (u.nextArrival.event = .reset ∨ ∃ d, u.nextArrival.event = .flashCommit d)
end

