-- ==== Sys2Proof/Laws/Decode.lean ====
section
/-! SUPPORT. What the decoder's parts do, said once: the operation of a data byte in plain numbers, the operands that
the encoder writes, and the fields of a decode word. -/

namespace Sys2Proof

open Machine

/-- `Ctx.atFreq` in plain numbers (with `FREQ_WRITE_ANY_PAGE` false, log 8). -/
theorem Ctx.atFreq_iff (c : Ctx) :
    c.atFreq = true ↔ c.cur = 0 ∧ (c.pos.toNat = 26 ∨ c.pos.toNat = 27) := by
  simp [Ctx.atFreq, freqWriteAnyPage, freqOffset]

/-- `Ctx.atTcxo` in plain numbers. -/
theorem Ctx.atTcxo_iff (c : Ctx) : c.atTcxo = true ↔ c.cur = 2 ∧ c.pos.toNat ≤ 19 := by
  have h19 : (saveOffset : Fin 32).val = 19 := rfl
  simp [Ctx.atTcxo, h19]

/-- The operation of a data byte (R100) in plain numbers, one test a line. -/
theorem dataOp_eq (c : Ctx) (b : Byte) :
    dataOp c b =
      if c.pos.toNat = 31 then .selpage b
      else if 32 ≤ c.pos.toNat then .ign b
      else if c.cur = 0 ∧ (c.pos.toNat = 26 ∨ c.pos.toNat = 27) then .stFreq (BitVec.ofNat 1 (c.pos.toNat - 26)) b
      else if c.cur = 2 ∧ c.pos.toNat < 16 then .stTcxoCoef (BitVec.ofNat 4 c.pos.toNat) b
      else if c.cur = 2 ∧ c.pos.toNat < 18 then .stTcxoTemp (BitVec.ofNat 1 (c.pos.toNat - 16)) b
      else if c.cur = 2 ∧ c.pos.toNat = 18 then .stTcxoRmse b
      else if c.cur = 2 ∧ c.pos.toNat = 19 then .save b
      else .ign b := by
  have h31 : (selOffset : Fin 32).val = 31 := rfl
  have h19 : (saveOffset : Fin 32).val = 19 := rfl
  unfold dataOp
  simp only [h31, h19, c.atFreq_iff, recordSize, tcxoWrLimit, freqOffset]
  by_cases h2 : c.cur = 2 <;> simp only [h2, true_and, false_and, if_false] <;> split_ifs <;> first | rfl | omega

/-! ### Operands -/

/-- A 16-bit operand reads back. -/
theorem takeHalf_halfBytes (v : Half) (r : List Byte) : takeHalf (halfBytes v ++ r) = .ok (v, r) := by
  simp only [halfBytes, List.cons_append, List.nil_append, takeHalf]
  congr 2
  unfold halfOf leByte; ext i hi; simp; grind

/-- A 32-bit operand reads back. -/
theorem takeWord_wordBytes (v : Word) (r : List Byte) : takeWord (wordBytes v ++ r) = .ok (v, r) := by
  simp only [wordBytes, List.cons_append, List.nil_append, takeWord]
  congr 2
  unfold wordOf leByte; ext i hi; simp; grind

/-- The two bits above the six draw flags are clear. -/
theorem drawFlags_lt (d : FlashDraws) : (drawFlags d).toNat < 64 := by
  have h : ∀ a b c e f g : Bool, (0#2 ++ BitVec.ofBool a ++ BitVec.ofBool b ++ BitVec.ofBool c ++ BitVec.ofBool e ++
      BitVec.ofBool f ++ BitVec.ofBool g : BitVec 8).toNat < 64 := by decide
  exact h _ _ _ _ _ _

/-! ### Decode words -/

/-- Three bytes, least significant first, are the word. -/
theorem decodeWord_of_bytes (w : BitVec 17) : leByte w 2 ++ leByte w 1 ++ leByte w 0 = w.setWidth 24 := by
  unfold leByte; ext i hi; simp; grind

/-- The state codes read back (R67). -/
theorem phaseOfCode_code (p : Phase) : phaseOfCode p.code = some p := by cases p <;> rfl

/-- A bit mask over a concatenation, part by part. -/
theorem append_and_append {n m : Nat} (a b : BitVec n) (c d : BitVec m) :
    (a ++ c) &&& (b ++ d) = (a &&& b) ++ (c &&& d) := by
  ext i hi
  simp only [BitVec.getElem_and, BitVec.getElem_append]
  split <;> rfl

/-- A decode word under a mask (R67), field by field. -/
theorem decodeWord_and (c : Ctx) (e : Event) (ke : BitVec 4) (ks : BitVec 3) (kc : BitVec 2) (kp : Byte) :
    decodeWord c e &&& (ke ++ ks ++ kc ++ kp) = (e.code &&& ke) ++ (c.st.code &&& ks) ++ (c.cur &&& kc) ++ (c.pos &&& kp) := by
  unfold decodeWord
  rw [append_and_append, append_and_append, append_and_append]

end Sys2Proof
end

