-- ==== Sys2Proof/Laws/State.lean ====
section
/-! SUPPORT. What each update of the state does to each field: one lemma per field per update, true by definition.
The updates that decide between two cases (`advance`, `takeError`, `refresh`, `writeSave`, `flashLoad`) are in
Laws/Ops.lean. -/

namespace Sys2Proof.Machine

variable (s : State)

/-! ### `writeLive` -/

@[simp] theorem State.writeLive_live (p : BitVec 2) (i : Fin 32) (v : Byte) : (s.writeLive p i v).live = s.live.set p.toNat ((s.page p).set i v) p.isLt := rfl
@[simp] theorem State.writeLive_tx (p : BitVec 2) (i : Fin 32) (v : Byte) : (s.writeLive p i v).tx = s.tx := rfl
@[simp] theorem State.writeLive_cur (p : BitVec 2) (i : Fin 32) (v : Byte) : (s.writeLive p i v).cur = s.cur := rfl
@[simp] theorem State.writeLive_st (p : BitVec 2) (i : Fin 32) (v : Byte) : (s.writeLive p i v).st = s.st := rfl
@[simp] theorem State.writeLive_pos (p : BitVec 2) (i : Fin 32) (v : Byte) : (s.writeLive p i v).pos = s.pos := rfl
@[simp] theorem State.writeLive_txi (p : BitVec 2) (i : Fin 32) (v : Byte) : (s.writeLive p i v).txi = s.txi := rfl
@[simp] theorem State.writeLive_listen (p : BitVec 2) (i : Fin 32) (v : Byte) : (s.writeLive p i v).listen = s.listen := rfl
@[simp] theorem State.writeLive_irqMask (p : BitVec 2) (i : Fin 32) (v : Byte) : (s.writeLive p i v).irqMask = s.irqMask := rfl
@[simp] theorem State.writeLive_flash (p : BitVec 2) (i : Fin 32) (v : Byte) : (s.writeLive p i v).flash = s.flash := rfl
@[simp] theorem State.writeLive_inputs (p : BitVec 2) (i : Fin 32) (v : Byte) : (s.writeLive p i v).inputs = s.inputs := rfl
@[simp] theorem State.writeLive_out (p : BitVec 2) (i : Fin 32) (v : Byte) : (s.writeLive p i v).out = s.out := rfl
@[simp] theorem State.writeLive_pending (p : BitVec 2) (i : Fin 32) (v : Byte) : (s.writeLive p i v).pending = s.pending := rfl
@[simp] theorem State.writeLive_drawn (p : BitVec 2) (i : Fin 32) (v : Byte) : (s.writeLive p i v).drawn = s.drawn := rfl
@[simp] theorem State.writeLive_patience (p : BitVec 2) (i : Fin 32) (v : Byte) : (s.writeLive p i v).patience = s.patience := rfl
@[simp] theorem State.writeLive_readFlash (p : BitVec 2) (i : Fin 32) (v : Byte) (k : Fin 20) :
    (s.writeLive p i v).readFlash k = s.readFlash k := rfl

/-! ### `emit` -/

@[simp] theorem State.emit_live (a : Action) : (s.emit a).live = s.live := rfl
@[simp] theorem State.emit_tx (a : Action) : (s.emit a).tx = s.tx := rfl
@[simp] theorem State.emit_cur (a : Action) : (s.emit a).cur = s.cur := rfl
@[simp] theorem State.emit_st (a : Action) : (s.emit a).st = s.st := rfl
@[simp] theorem State.emit_pos (a : Action) : (s.emit a).pos = s.pos := rfl
@[simp] theorem State.emit_txi (a : Action) : (s.emit a).txi = s.txi := rfl
@[simp] theorem State.emit_listen (a : Action) : (s.emit a).listen = s.listen := rfl
@[simp] theorem State.emit_irqMask (a : Action) : (s.emit a).irqMask = s.irqMask := rfl
@[simp] theorem State.emit_flash (a : Action) : (s.emit a).flash = s.flash := rfl
@[simp] theorem State.emit_inputs (a : Action) : (s.emit a).inputs = s.inputs := rfl
@[simp] theorem State.emit_out (a : Action) : (s.emit a).out = some a := rfl
@[simp] theorem State.emit_pending (a : Action) : (s.emit a).pending = s.pending := rfl
@[simp] theorem State.emit_drawn (a : Action) : (s.emit a).drawn = s.drawn := rfl
@[simp] theorem State.emit_patience (a : Action) : (s.emit a).patience = s.patience := rfl
@[simp] theorem State.emit_readLive (a : Action) (q : BitVec 2) (j : Fin 32) :
    (s.emit a).readLive q j = s.readLive q j := rfl
@[simp] theorem State.emit_page (a : Action) (q : BitVec 2) : (s.emit a).page q = s.page q := rfl
@[simp] theorem State.emit_readFlash (a : Action) (k : Fin 20) :
    (s.emit a).readFlash k = s.readFlash k := rfl

/-! ### `rearm` -/

@[simp] theorem State.rearm_live : (s.rearm).live = s.live := rfl
@[simp] theorem State.rearm_tx : (s.rearm).tx = s.tx := rfl
@[simp] theorem State.rearm_cur : (s.rearm).cur = s.cur := rfl
@[simp] theorem State.rearm_st : (s.rearm).st = s.st := rfl
@[simp] theorem State.rearm_pos : (s.rearm).pos = s.pos := rfl
@[simp] theorem State.rearm_txi : (s.rearm).txi = s.txi := rfl
@[simp] theorem State.rearm_listen : (s.rearm).listen = true := rfl
@[simp] theorem State.rearm_irqMask : (s.rearm).irqMask = s.irqMask := rfl
@[simp] theorem State.rearm_flash : (s.rearm).flash = s.flash := rfl
@[simp] theorem State.rearm_inputs : (s.rearm).inputs = s.inputs := rfl
@[simp] theorem State.rearm_out : (s.rearm).out = some .enableListen := rfl
@[simp] theorem State.rearm_pending : (s.rearm).pending = s.pending := rfl
@[simp] theorem State.rearm_drawn : (s.rearm).drawn = s.drawn := rfl
@[simp] theorem State.rearm_patience : (s.rearm).patience = s.patience := rfl
@[simp] theorem State.rearm_readLive (q : BitVec 2) (j : Fin 32) :
    (s.rearm).readLive q j = s.readLive q j := rfl
@[simp] theorem State.rearm_page (q : BitVec 2) : (s.rearm).page q = s.page q := rfl
@[simp] theorem State.rearm_readFlash (k : Fin 20) :
    (s.rearm).readFlash k = s.readFlash k := rfl

/-! ### `snapshot` -/

@[simp] theorem State.snapshot_live (p : BitVec 2) : (s.snapshot p).live = s.live := rfl
@[simp] theorem State.snapshot_tx (p : BitVec 2) : (s.snapshot p).tx = s.page p := rfl
@[simp] theorem State.snapshot_cur (p : BitVec 2) : (s.snapshot p).cur = s.cur := rfl
@[simp] theorem State.snapshot_st (p : BitVec 2) : (s.snapshot p).st = s.st := rfl
@[simp] theorem State.snapshot_pos (p : BitVec 2) : (s.snapshot p).pos = s.pos := rfl
@[simp] theorem State.snapshot_txi (p : BitVec 2) : (s.snapshot p).txi = s.txi := rfl
@[simp] theorem State.snapshot_listen (p : BitVec 2) : (s.snapshot p).listen = s.listen := rfl
@[simp] theorem State.snapshot_irqMask (p : BitVec 2) : (s.snapshot p).irqMask = false := rfl
@[simp] theorem State.snapshot_flash (p : BitVec 2) : (s.snapshot p).flash = s.flash := rfl
@[simp] theorem State.snapshot_inputs (p : BitVec 2) : (s.snapshot p).inputs = s.inputs := rfl
@[simp] theorem State.snapshot_out (p : BitVec 2) : (s.snapshot p).out = s.out := rfl
@[simp] theorem State.snapshot_pending (p : BitVec 2) : (s.snapshot p).pending = s.pending := rfl
@[simp] theorem State.snapshot_drawn (p : BitVec 2) : (s.snapshot p).drawn = s.drawn := rfl
@[simp] theorem State.snapshot_patience (p : BitVec 2) : (s.snapshot p).patience = s.patience := rfl
@[simp] theorem State.snapshot_readLive (p : BitVec 2) (q : BitVec 2) (j : Fin 32) :
    (s.snapshot p).readLive q j = s.readLive q j := rfl
@[simp] theorem State.snapshot_page (p : BitVec 2) (q : BitVec 2) : (s.snapshot p).page q = s.page q := rfl
@[simp] theorem State.snapshot_readFlash (p : BitVec 2) (k : Fin 20) :
    (s.snapshot p).readFlash k = s.readFlash k := rfl

/-! ### `endTransaction` -/

@[simp] theorem State.endTransaction_live : (s.endTransaction).live = s.live := rfl
@[simp] theorem State.endTransaction_tx : (s.endTransaction).tx = s.tx := rfl
@[simp] theorem State.endTransaction_cur : (s.endTransaction).cur = s.cur := rfl
@[simp] theorem State.endTransaction_st : (s.endTransaction).st = .waiting := rfl
@[simp] theorem State.endTransaction_pos : (s.endTransaction).pos = s.pos := rfl
@[simp] theorem State.endTransaction_txi : (s.endTransaction).txi = s.txi := rfl
@[simp] theorem State.endTransaction_listen : (s.endTransaction).listen = true := rfl
@[simp] theorem State.endTransaction_irqMask : (s.endTransaction).irqMask = s.irqMask := rfl
@[simp] theorem State.endTransaction_flash : (s.endTransaction).flash = s.flash := rfl
@[simp] theorem State.endTransaction_inputs : (s.endTransaction).inputs = s.inputs := rfl
@[simp] theorem State.endTransaction_out : (s.endTransaction).out = some .enableListen := rfl
@[simp] theorem State.endTransaction_pending : (s.endTransaction).pending = s.pending := rfl
@[simp] theorem State.endTransaction_drawn : (s.endTransaction).drawn = s.drawn := rfl
@[simp] theorem State.endTransaction_patience : (s.endTransaction).patience = s.patience := rfl
@[simp] theorem State.endTransaction_readLive (q : BitVec 2) (j : Fin 32) :
    (s.endTransaction).readLive q j = s.readLive q j := rfl
@[simp] theorem State.endTransaction_page (q : BitVec 2) : (s.endTransaction).page q = s.page q := rfl
@[simp] theorem State.endTransaction_readFlash (k : Fin 20) :
    (s.endTransaction).readFlash k = s.readFlash k := rfl

/-! ### `writeF16` -/

@[simp] theorem State.writeF16_tx (p : BitVec 2) (o : Nat) (v : Half) (h : o + 1 < 32) : (s.writeF16 p o v h).tx = s.tx := rfl
@[simp] theorem State.writeF16_cur (p : BitVec 2) (o : Nat) (v : Half) (h : o + 1 < 32) : (s.writeF16 p o v h).cur = s.cur := rfl
@[simp] theorem State.writeF16_st (p : BitVec 2) (o : Nat) (v : Half) (h : o + 1 < 32) : (s.writeF16 p o v h).st = s.st := rfl
@[simp] theorem State.writeF16_pos (p : BitVec 2) (o : Nat) (v : Half) (h : o + 1 < 32) : (s.writeF16 p o v h).pos = s.pos := rfl
@[simp] theorem State.writeF16_txi (p : BitVec 2) (o : Nat) (v : Half) (h : o + 1 < 32) : (s.writeF16 p o v h).txi = s.txi := rfl
@[simp] theorem State.writeF16_listen (p : BitVec 2) (o : Nat) (v : Half) (h : o + 1 < 32) : (s.writeF16 p o v h).listen = s.listen := rfl
@[simp] theorem State.writeF16_irqMask (p : BitVec 2) (o : Nat) (v : Half) (h : o + 1 < 32) : (s.writeF16 p o v h).irqMask = s.irqMask := rfl
@[simp] theorem State.writeF16_flash (p : BitVec 2) (o : Nat) (v : Half) (h : o + 1 < 32) : (s.writeF16 p o v h).flash = s.flash := rfl
@[simp] theorem State.writeF16_inputs (p : BitVec 2) (o : Nat) (v : Half) (h : o + 1 < 32) : (s.writeF16 p o v h).inputs = s.inputs := rfl
@[simp] theorem State.writeF16_out (p : BitVec 2) (o : Nat) (v : Half) (h : o + 1 < 32) : (s.writeF16 p o v h).out = s.out := rfl
@[simp] theorem State.writeF16_pending (p : BitVec 2) (o : Nat) (v : Half) (h : o + 1 < 32) : (s.writeF16 p o v h).pending = s.pending := rfl
@[simp] theorem State.writeF16_drawn (p : BitVec 2) (o : Nat) (v : Half) (h : o + 1 < 32) : (s.writeF16 p o v h).drawn = s.drawn := rfl
@[simp] theorem State.writeF16_patience (p : BitVec 2) (o : Nat) (v : Half) (h : o + 1 < 32) : (s.writeF16 p o v h).patience = s.patience := rfl
@[simp] theorem State.writeF16_readFlash (p : BitVec 2) (o : Nat) (v : Half) (h : o + 1 < 32) (k : Fin 20) :
    (s.writeF16 p o v h).readFlash k = s.readFlash k := rfl

/-! ### `writeF32` -/

@[simp] theorem State.writeF32_tx (p : BitVec 2) (o : Nat) (v : Word) (h : o + 3 < 32) : (s.writeF32 p o v h).tx = s.tx := rfl
@[simp] theorem State.writeF32_cur (p : BitVec 2) (o : Nat) (v : Word) (h : o + 3 < 32) : (s.writeF32 p o v h).cur = s.cur := rfl
@[simp] theorem State.writeF32_st (p : BitVec 2) (o : Nat) (v : Word) (h : o + 3 < 32) : (s.writeF32 p o v h).st = s.st := rfl
@[simp] theorem State.writeF32_pos (p : BitVec 2) (o : Nat) (v : Word) (h : o + 3 < 32) : (s.writeF32 p o v h).pos = s.pos := rfl
@[simp] theorem State.writeF32_txi (p : BitVec 2) (o : Nat) (v : Word) (h : o + 3 < 32) : (s.writeF32 p o v h).txi = s.txi := rfl
@[simp] theorem State.writeF32_listen (p : BitVec 2) (o : Nat) (v : Word) (h : o + 3 < 32) : (s.writeF32 p o v h).listen = s.listen := rfl
@[simp] theorem State.writeF32_irqMask (p : BitVec 2) (o : Nat) (v : Word) (h : o + 3 < 32) : (s.writeF32 p o v h).irqMask = s.irqMask := rfl
@[simp] theorem State.writeF32_flash (p : BitVec 2) (o : Nat) (v : Word) (h : o + 3 < 32) : (s.writeF32 p o v h).flash = s.flash := rfl
@[simp] theorem State.writeF32_inputs (p : BitVec 2) (o : Nat) (v : Word) (h : o + 3 < 32) : (s.writeF32 p o v h).inputs = s.inputs := rfl
@[simp] theorem State.writeF32_out (p : BitVec 2) (o : Nat) (v : Word) (h : o + 3 < 32) : (s.writeF32 p o v h).out = s.out := rfl
@[simp] theorem State.writeF32_pending (p : BitVec 2) (o : Nat) (v : Word) (h : o + 3 < 32) : (s.writeF32 p o v h).pending = s.pending := rfl
@[simp] theorem State.writeF32_drawn (p : BitVec 2) (o : Nat) (v : Word) (h : o + 3 < 32) : (s.writeF32 p o v h).drawn = s.drawn := rfl
@[simp] theorem State.writeF32_patience (p : BitVec 2) (o : Nat) (v : Word) (h : o + 3 < 32) : (s.writeF32 p o v h).patience = s.patience := rfl
@[simp] theorem State.writeF32_readFlash (p : BitVec 2) (o : Nat) (v : Word) (h : o + 3 < 32) (k : Fin 20) :
    (s.writeF32 p o v h).readFlash k = s.readFlash k := rfl

/-! ### `captureCommon` -/

@[simp] theorem State.captureCommon_tx (c : Fin 3) (v : Half) : (s.captureCommon c v).tx = s.tx := rfl
@[simp] theorem State.captureCommon_cur (c : Fin 3) (v : Half) : (s.captureCommon c v).cur = s.cur := rfl
@[simp] theorem State.captureCommon_st (c : Fin 3) (v : Half) : (s.captureCommon c v).st = s.st := rfl
@[simp] theorem State.captureCommon_pos (c : Fin 3) (v : Half) : (s.captureCommon c v).pos = s.pos := rfl
@[simp] theorem State.captureCommon_txi (c : Fin 3) (v : Half) : (s.captureCommon c v).txi = s.txi := rfl
@[simp] theorem State.captureCommon_listen (c : Fin 3) (v : Half) : (s.captureCommon c v).listen = s.listen := rfl
@[simp] theorem State.captureCommon_irqMask (c : Fin 3) (v : Half) : (s.captureCommon c v).irqMask = s.irqMask := rfl
@[simp] theorem State.captureCommon_flash (c : Fin 3) (v : Half) : (s.captureCommon c v).flash = s.flash := rfl
@[simp] theorem State.captureCommon_inputs (c : Fin 3) (v : Half) : (s.captureCommon c v).inputs = s.inputs := rfl
@[simp] theorem State.captureCommon_out (c : Fin 3) (v : Half) : (s.captureCommon c v).out = s.out := rfl
@[simp] theorem State.captureCommon_pending (c : Fin 3) (v : Half) : (s.captureCommon c v).pending = s.pending := rfl
@[simp] theorem State.captureCommon_drawn (c : Fin 3) (v : Half) : (s.captureCommon c v).drawn = s.drawn := rfl
@[simp] theorem State.captureCommon_patience (c : Fin 3) (v : Half) : (s.captureCommon c v).patience = s.patience := rfl
@[simp] theorem State.captureCommon_readFlash (c : Fin 3) (v : Half) (k : Fin 20) :
    (s.captureCommon c v).readFlash k = s.readFlash k := rfl

/-! ### `bumpRollover` -/

@[simp] theorem State.bumpRollover_tx (i : Fin 32) : (s.bumpRollover i).tx = s.tx := rfl
@[simp] theorem State.bumpRollover_cur (i : Fin 32) : (s.bumpRollover i).cur = s.cur := rfl
@[simp] theorem State.bumpRollover_st (i : Fin 32) : (s.bumpRollover i).st = s.st := rfl
@[simp] theorem State.bumpRollover_pos (i : Fin 32) : (s.bumpRollover i).pos = s.pos := rfl
@[simp] theorem State.bumpRollover_txi (i : Fin 32) : (s.bumpRollover i).txi = s.txi := rfl
@[simp] theorem State.bumpRollover_listen (i : Fin 32) : (s.bumpRollover i).listen = s.listen := rfl
@[simp] theorem State.bumpRollover_irqMask (i : Fin 32) : (s.bumpRollover i).irqMask = s.irqMask := rfl
@[simp] theorem State.bumpRollover_flash (i : Fin 32) : (s.bumpRollover i).flash = s.flash := rfl
@[simp] theorem State.bumpRollover_inputs (i : Fin 32) : (s.bumpRollover i).inputs = s.inputs := rfl
@[simp] theorem State.bumpRollover_out (i : Fin 32) : (s.bumpRollover i).out = s.out := rfl
@[simp] theorem State.bumpRollover_pending (i : Fin 32) : (s.bumpRollover i).pending = s.pending := rfl
@[simp] theorem State.bumpRollover_drawn (i : Fin 32) : (s.bumpRollover i).drawn = s.drawn := rfl
@[simp] theorem State.bumpRollover_patience (i : Fin 32) : (s.bumpRollover i).patience = s.patience := rfl
@[simp] theorem State.bumpRollover_readFlash (i : Fin 32) (k : Fin 20) :
    (s.bumpRollover i).readFlash k = s.readFlash k := rfl

/-! ### `recordCommit` -/

@[simp] theorem State.recordCommit_tx (v : Byte) : (s.recordCommit v).tx = s.tx := rfl
@[simp] theorem State.recordCommit_cur (v : Byte) : (s.recordCommit v).cur = s.cur := rfl
@[simp] theorem State.recordCommit_st (v : Byte) : (s.recordCommit v).st = s.st := rfl
@[simp] theorem State.recordCommit_pos (v : Byte) : (s.recordCommit v).pos = s.pos := rfl
@[simp] theorem State.recordCommit_txi (v : Byte) : (s.recordCommit v).txi = s.txi := rfl
@[simp] theorem State.recordCommit_listen (v : Byte) : (s.recordCommit v).listen = s.listen := rfl
@[simp] theorem State.recordCommit_irqMask (v : Byte) : (s.recordCommit v).irqMask = s.irqMask := rfl
@[simp] theorem State.recordCommit_flash (v : Byte) : (s.recordCommit v).flash = s.flash := rfl
@[simp] theorem State.recordCommit_inputs (v : Byte) : (s.recordCommit v).inputs = s.inputs := rfl
@[simp] theorem State.recordCommit_out (v : Byte) : (s.recordCommit v).out = s.out := rfl
@[simp] theorem State.recordCommit_pending (v : Byte) : (s.recordCommit v).pending = s.pending := rfl
@[simp] theorem State.recordCommit_drawn (v : Byte) : (s.recordCommit v).drawn = s.drawn := rfl
@[simp] theorem State.recordCommit_patience (v : Byte) : (s.recordCommit v).patience = s.patience := rfl
@[simp] theorem State.recordCommit_readFlash (v : Byte) (k : Fin 20) :
    (s.recordCommit v).readFlash k = s.readFlash k := rfl

/-! ### `take` -/

@[simp] theorem State.take_live (a : Arrival) : (s.take a).live = s.live := rfl
@[simp] theorem State.take_tx (a : Arrival) : (s.take a).tx = s.tx := rfl
@[simp] theorem State.take_cur (a : Arrival) : (s.take a).cur = s.cur := rfl
@[simp] theorem State.take_st (a : Arrival) : (s.take a).st = s.st := rfl
@[simp] theorem State.take_pos (a : Arrival) : (s.take a).pos = s.pos := rfl
@[simp] theorem State.take_txi (a : Arrival) : (s.take a).txi = s.txi := rfl
@[simp] theorem State.take_listen (a : Arrival) : (s.take a).listen = s.listen := rfl
@[simp] theorem State.take_irqMask (a : Arrival) : (s.take a).irqMask = s.irqMask := rfl
@[simp] theorem State.take_flash (a : Arrival) : (s.take a).flash = s.flash := rfl
@[simp] theorem State.take_inputs (a : Arrival) : (s.take a).inputs = a.inputs := rfl
@[simp] theorem State.take_out (a : Arrival) : (s.take a).out = none := rfl
@[simp] theorem State.take_pending (a : Arrival) : (s.take a).pending = s.pending.tail := rfl
@[simp] theorem State.take_drawn (a : Arrival) : (s.take a).drawn = s.drawnAfter := rfl
@[simp] theorem State.take_patience (a : Arrival) : (s.take a).patience = s.patienceAfter := rfl
@[simp] theorem State.take_readLive (a : Arrival) (q : BitVec 2) (j : Fin 32) :
    (s.take a).readLive q j = s.readLive q j := rfl
@[simp] theorem State.take_page (a : Arrival) (q : BitVec 2) : (s.take a).page q = s.page q := rfl
@[simp] theorem State.take_readFlash (a : Arrival) (k : Fin 20) :
    (s.take a).readFlash k = s.readFlash k := rfl

/-! ### `hold` -/

@[simp] theorem State.hold_live (a : Arrival) : (s.hold a).live = s.live := rfl
@[simp] theorem State.hold_tx (a : Arrival) : (s.hold a).tx = s.tx := rfl
@[simp] theorem State.hold_cur (a : Arrival) : (s.hold a).cur = s.cur := rfl
@[simp] theorem State.hold_st (a : Arrival) : (s.hold a).st = s.st := rfl
@[simp] theorem State.hold_pos (a : Arrival) : (s.hold a).pos = s.pos := rfl
@[simp] theorem State.hold_txi (a : Arrival) : (s.hold a).txi = s.txi := rfl
@[simp] theorem State.hold_listen (a : Arrival) : (s.hold a).listen = s.listen := rfl
@[simp] theorem State.hold_irqMask (a : Arrival) : (s.hold a).irqMask = s.irqMask := rfl
@[simp] theorem State.hold_flash (a : Arrival) : (s.hold a).flash = s.flash := rfl
@[simp] theorem State.hold_inputs (a : Arrival) : (s.hold a).inputs = s.inputs := rfl
@[simp] theorem State.hold_out (a : Arrival) : (s.hold a).out = none := rfl
@[simp] theorem State.hold_pending (a : Arrival) : (s.hold a).pending = a :: s.pending.tail := rfl
@[simp] theorem State.hold_drawn (a : Arrival) : (s.hold a).drawn = s.drawnAfter := rfl
@[simp] theorem State.hold_patience (a : Arrival) : (s.hold a).patience = s.patienceAfter := rfl
@[simp] theorem State.hold_readLive (a : Arrival) (q : BitVec 2) (j : Fin 32) :
    (s.hold a).readLive q j = s.readLive q j := rfl
@[simp] theorem State.hold_page (a : Arrival) (q : BitVec 2) : (s.hold a).page q = s.page q := rfl
@[simp] theorem State.hold_readFlash (a : Arrival) (k : Fin 20) :
    (s.hold a).readFlash k = s.readFlash k := rfl

end Sys2Proof.Machine
end

