-- ==== Sys2Proof/Laws/Ops.lean ====
section
/-! SUPPORT. One lemma per shared operation: everything it can do to the live pages, to the transmit buffer and to the
fields whose change depends on a case. Claims are stated with `readLive`, and these lemmas push it through every
operation. -/

namespace Sys2Proof.Machine

/-! ### Reading a live byte after a store -/

theorem State.page_writeLive (s : State) (p : BitVec 2) (i : Fin 32) (v : Byte) (q : BitVec 2) :
    (s.writeLive p i v).page q = if q = p then (s.page p).set i v else s.page q := by
  unfold State.page State.writeLive
  rw [Vector.getElem_set]
  by_cases h : q = p
  · subst h; simp [State.page]
  · have : ¬ p.toNat = q.toNat := fun e => h (BitVec.eq_of_toNat_eq e.symm)
    simp [h, this]

/-- Read after write: the byte written at its place, every other byte as before. -/
theorem State.readLive_writeLive (s : State) (p : BitVec 2) (i : Fin 32) (v : Byte) (q : BitVec 2) (j : Fin 32) :
    (s.writeLive p i v).readLive q j = if q = p ∧ j = i then v else s.readLive q j := by
  unfold State.readLive
  rw [State.page_writeLive]
  by_cases hq : q = p
  · subst hq
    by_cases hj : j = i
    · subst hj; simp
    · have : ¬ i.val = j.val := fun e => hj (Fin.ext e.symm)
      simp [hj, this]
  · simp [hq]

/-- `F16(p, o) <- v` (R5): two bytes, the low one at the lower offset. -/
theorem State.readLive_writeF16 (s : State) (p : BitVec 2) (o : Nat) (v : Half) (h : o + 1 < 32) (q : BitVec 2)
    (j : Fin 32) :
    (s.writeF16 p o v h).readLive q j =
      if q = p ∧ o ≤ j.val ∧ j.val < o + 2 then leByte v (j.val - o) else s.readLive q j := by
  unfold State.writeF16
  simp only [State.readLive_writeLive, Fin.ext_iff]
  by_cases hq : q = p
  · by_cases h0 : j.val = o
    · simp [hq, h0]
    · by_cases h1 : j.val = o + 1
      · simp [hq, h1]
      · have : ¬ (o ≤ j.val ∧ j.val < o + 2) := by omega
        simp [hq, h0, h1, this]
  · simp [hq]

/-- `F32(p, o) <- v` (R5): four bytes, the low one at the lowest offset. -/
theorem State.readLive_writeF32 (s : State) (p : BitVec 2) (o : Nat) (v : Word) (h : o + 3 < 32) (q : BitVec 2)
    (j : Fin 32) :
    (s.writeF32 p o v h).readLive q j =
      if q = p ∧ o ≤ j.val ∧ j.val < o + 4 then leByte v (j.val - o) else s.readLive q j := by
  unfold State.writeF32
  simp only [State.readLive_writeLive, Fin.ext_iff]
  by_cases hq : q = p
  · by_cases h0 : j.val = o
    · simp [hq, h0]
    · by_cases h1 : j.val = o + 1
      · simp [hq, h1]
      · by_cases h2 : j.val = o + 2
        · simp [hq, h2]
        · by_cases h3 : j.val = o + 3
          · simp [hq, h3]
          · have : ¬ (o ≤ j.val ∧ j.val < o + 4) := by omega
            simp [hq, h0, h1, h2, h3, this]
  · simp [hq]

/-- The capture entry of channel index `c` (R124): six bytes of page 1 from `8 + 6c`. -/
theorem State.readLive_captureCommon (s : State) (c : Fin 3) (v : Half) (q : BitVec 2) (j : Fin 32) :
    (s.captureCommon c v).readLive q j =
      if q = 0 ∧ 8 + 6 * c.val ≤ j.val ∧ j.val < 8 + 6 * c.val + 2 then leByte s.inputs.cntLo (j.val - (8 + 6 * c.val))
      else if q = 0 ∧ 8 + 6 * c.val + 2 ≤ j.val ∧ j.val < 8 + 6 * c.val + 4 then
        leByte s.inputs.cntHi (j.val - (8 + 6 * c.val + 2))
      else if q = 0 ∧ 8 + 6 * c.val + 4 ≤ j.val ∧ j.val < 8 + 6 * c.val + 6 then
        leByte v (j.val - (8 + 6 * c.val + 4))
      else s.readLive q j := by
  unfold State.captureCommon
  simp only [State.readLive_writeF16]
  split_ifs <;> first | rfl | omega

/-- The rollover counter (R125): one byte of page 1, plus one modulo 2^8. -/
theorem State.readLive_bumpRollover (s : State) (i : Fin 32) (q : BitVec 2) (j : Fin 32) :
    (s.bumpRollover i).readLive q j = if q = 0 ∧ j = i then s.readLive 0 i + 1 else s.readLive q j := by
  unfold State.bumpRollover
  rw [State.readLive_writeLive]

/-- The end of a commit (R138): `save_status` is the status, `save` is zero. -/
theorem State.readLive_recordCommit (s : State) (v : Byte) (q : BitVec 2) (j : Fin 32) :
    (s.recordCommit v).readLive q j =
      if q = 2 ∧ j = saveOffset then 0 else if q = 2 ∧ j = statusOffset then v else s.readLive q j := by
  unfold State.recordCommit
  simp only [State.readLive_writeLive]

/-- The trigger (R107): a non-zero byte is stored, a zero is ignored. -/
theorem State.readLive_writeSave (s : State) (b : Byte) (q : BitVec 2) (j : Fin 32) :
    (s.writeSave b).readLive q j = if b ≠ 0 ∧ q = 2 ∧ j = saveOffset then b else s.readLive q j := by
  unfold State.writeSave
  by_cases hb : b = 0
  · simp [hb]
  · rw [if_neg hb, State.readLive_writeLive]
    simp only [ne_eq, hb, not_false_eq_true, true_and]

/-- The refresh of a page selection (R102): bytes 0..3 of pages 1 and 4, nothing on pages 2 and 3. -/
theorem State.readLive_refresh (s : State) (p q : BitVec 2) (j : Fin 32) :
    (s.refresh p).readLive q j =
      if p = 0 ∧ q = 0 ∧ j.val < 4 then leByte s.inputs.tick32 j.val
      else if p = 3 ∧ q = 3 ∧ j.val < 2 then leByte s.inputs.cntLo j.val
      else if p = 3 ∧ q = 3 ∧ 2 ≤ j.val ∧ j.val < 4 then leByte s.inputs.cntHi (j.val - 2)
      else s.readLive q j := by
  unfold State.refresh
  by_cases h0 : p = 0
  · subst h0; simp [State.readLive_writeF32]
  · by_cases h3 : p = 3
    · rw [if_neg h0, if_pos h3, State.readLive_writeF16, State.readLive_writeF16]
      subst h3
      by_cases hq : q = 3
      · by_cases h2 : j.val < 2
        · have : ¬ 2 ≤ j.val := by omega
          simp [hq, h2, this]
        · simp [hq, h2]
      · simp only [h0, hq, false_and, and_false, if_false]
    · rw [if_neg h0, if_neg h3]
      simp only [h0, h3, false_and, if_false]

/-- `load()` (R136), its first `n` bytes. -/
theorem State.readLive_flashLoad (s : State) (n : Nat) (h : n ≤ 19) (q : BitVec 2) (j : Fin 32) :
    (s.flashLoad n h).readLive q j = if q = 2 ∧ j.val < n then Memory.lookup s.flash j.val else s.readLive q j := by
  induction n with
  | zero => simp [State.flashLoad]
  | succ n ih =>
    simp only [State.flashLoad, State.readLive_writeLive, ih (by omega), Fin.ext_iff]
    by_cases hq : q = 2
    · by_cases hj : j.val = n
      · simp [hq, hj, State.readFlash]
      · by_cases hlt : j.val < n
        · simp [hq, hj, hlt, Nat.lt_succ_of_lt hlt]
        · have : ¬ j.val < n + 1 := by omega
          simp [hq, hj, hlt, this]
    · simp only [hq, false_and, if_false]

/-! ### The updates that decide between two cases -/

@[simp] theorem State.refresh_tx (s : State) (p : BitVec 2) : (s.refresh p).tx = s.tx := by
  unfold State.refresh; split_ifs <;> rfl
@[simp] theorem State.refresh_cur (s : State) (p : BitVec 2) : (s.refresh p).cur = s.cur := by
  unfold State.refresh; split_ifs <;> rfl
@[simp] theorem State.refresh_st (s : State) (p : BitVec 2) : (s.refresh p).st = s.st := by
  unfold State.refresh; split_ifs <;> rfl
@[simp] theorem State.refresh_pos (s : State) (p : BitVec 2) : (s.refresh p).pos = s.pos := by
  unfold State.refresh; split_ifs <;> rfl
@[simp] theorem State.refresh_txi (s : State) (p : BitVec 2) : (s.refresh p).txi = s.txi := by
  unfold State.refresh; split_ifs <;> rfl
@[simp] theorem State.refresh_listen (s : State) (p : BitVec 2) : (s.refresh p).listen = s.listen := by
  unfold State.refresh; split_ifs <;> rfl
@[simp] theorem State.refresh_irqMask (s : State) (p : BitVec 2) : (s.refresh p).irqMask = s.irqMask := by
  unfold State.refresh; split_ifs <;> rfl
@[simp] theorem State.refresh_flash (s : State) (p : BitVec 2) : (s.refresh p).flash = s.flash := by
  unfold State.refresh; split_ifs <;> rfl
@[simp] theorem State.refresh_inputs (s : State) (p : BitVec 2) : (s.refresh p).inputs = s.inputs := by
  unfold State.refresh; split_ifs <;> rfl
@[simp] theorem State.refresh_out (s : State) (p : BitVec 2) : (s.refresh p).out = s.out := by
  unfold State.refresh; split_ifs <;> rfl
@[simp] theorem State.refresh_pending (s : State) (p : BitVec 2) : (s.refresh p).pending = s.pending := by
  unfold State.refresh; split_ifs <;> rfl
@[simp] theorem State.refresh_drawn (s : State) (p : BitVec 2) : (s.refresh p).drawn = s.drawn := by
  unfold State.refresh; split_ifs <;> rfl
@[simp] theorem State.refresh_patience (s : State) (p : BitVec 2) : (s.refresh p).patience = s.patience := by
  unfold State.refresh; split_ifs <;> rfl

/-- A write to the trigger changes nothing but live page 3. -/
theorem State.writeSave_eq (s : State) (b : Byte) : s.writeSave b = { s with live := (s.writeSave b).live } := by
  unfold State.writeSave; split_ifs <;> rfl

@[simp] theorem State.writeSave_tx (s : State) (b : Byte) : (s.writeSave b).tx = s.tx := by rw [writeSave_eq]
@[simp] theorem State.writeSave_cur (s : State) (b : Byte) : (s.writeSave b).cur = s.cur := by rw [writeSave_eq]
@[simp] theorem State.writeSave_st (s : State) (b : Byte) : (s.writeSave b).st = s.st := by rw [writeSave_eq]
@[simp] theorem State.writeSave_pos (s : State) (b : Byte) : (s.writeSave b).pos = s.pos := by rw [writeSave_eq]
@[simp] theorem State.writeSave_txi (s : State) (b : Byte) : (s.writeSave b).txi = s.txi := by rw [writeSave_eq]
@[simp] theorem State.writeSave_listen (s : State) (b : Byte) : (s.writeSave b).listen = s.listen := by rw [writeSave_eq]
@[simp] theorem State.writeSave_irqMask (s : State) (b : Byte) : (s.writeSave b).irqMask = s.irqMask := by
  rw [writeSave_eq]
@[simp] theorem State.writeSave_flash (s : State) (b : Byte) : (s.writeSave b).flash = s.flash := by rw [writeSave_eq]
@[simp] theorem State.writeSave_inputs (s : State) (b : Byte) : (s.writeSave b).inputs = s.inputs := by rw [writeSave_eq]
@[simp] theorem State.writeSave_out (s : State) (b : Byte) : (s.writeSave b).out = s.out := by rw [writeSave_eq]
@[simp] theorem State.writeSave_pending (s : State) (b : Byte) : (s.writeSave b).pending = s.pending := by
  rw [writeSave_eq]
@[simp] theorem State.writeSave_drawn (s : State) (b : Byte) : (s.writeSave b).drawn = s.drawn := by rw [writeSave_eq]
@[simp] theorem State.writeSave_patience (s : State) (b : Byte) : (s.writeSave b).patience = s.patience := by rw [writeSave_eq]

/-- `load()` changes nothing but the live pages. -/
theorem State.flashLoad_eq (s : State) (n : Nat) (h : n ≤ 19) :
    s.flashLoad n h = { s with live := (s.flashLoad n h).live } := by
  induction n with
  | zero => rfl
  | succ n ih => simp only [State.flashLoad]; rw [ih (by omega)]; rfl

/-! ### The tail of a data byte (R83) -/

/-- The tail advances the cursor and either drops the rest of the transaction or asks for the next byte. -/
theorem State.advance_cases (s : State) :
    (32 < (s.pos + 1).toNat ∧ s.advance = { s with pos := s.pos + 1, st := .dropData }) ∨
      (¬ 32 < (s.pos + 1).toNat ∧ s.advance = { s with pos := s.pos + 1, out := some .requestRx }) := by
  unfold State.advance
  by_cases h : 32 < (s.pos + 1).toNat
  · exact .inl ⟨h, if_pos h⟩
  · exact .inr ⟨h, if_neg h⟩

@[simp] theorem State.advance_pos (s : State) : s.advance.pos = s.pos + 1 := by
  obtain ⟨-, h⟩ | ⟨-, h⟩ := s.advance_cases <;> rw [h]
theorem State.advance_st (s : State) : s.advance.st = if 32 < (s.pos + 1).toNat then .dropData else s.st := by
  obtain ⟨hc, h⟩ | ⟨hc, h⟩ := s.advance_cases <;> rw [h] <;> simp only [hc, if_true, if_false]
theorem State.advance_out (s : State) :
    s.advance.out = if 32 < (s.pos + 1).toNat then s.out else some .requestRx := by
  obtain ⟨hc, h⟩ | ⟨hc, h⟩ := s.advance_cases <;> rw [h] <;> simp only [hc, if_true, if_false]
@[simp] theorem State.advance_live (s : State) : s.advance.live = s.live := by
  obtain ⟨-, h⟩ | ⟨-, h⟩ := s.advance_cases <;> rw [h]
@[simp] theorem State.advance_page (s : State) (q : BitVec 2) : s.advance.page q = s.page q := by
  unfold State.page; simp
@[simp] theorem State.advance_readLive (s : State) (q : BitVec 2) (j : Fin 32) :
    s.advance.readLive q j = s.readLive q j := by unfold State.readLive; simp
@[simp] theorem State.advance_tx (s : State) : s.advance.tx = s.tx := by
  obtain ⟨-, h⟩ | ⟨-, h⟩ := s.advance_cases <;> rw [h]
@[simp] theorem State.advance_cur (s : State) : s.advance.cur = s.cur := by
  obtain ⟨-, h⟩ | ⟨-, h⟩ := s.advance_cases <;> rw [h]
@[simp] theorem State.advance_txi (s : State) : s.advance.txi = s.txi := by
  obtain ⟨-, h⟩ | ⟨-, h⟩ := s.advance_cases <;> rw [h]
@[simp] theorem State.advance_listen (s : State) : s.advance.listen = s.listen := by
  obtain ⟨-, h⟩ | ⟨-, h⟩ := s.advance_cases <;> rw [h]
@[simp] theorem State.advance_irqMask (s : State) : s.advance.irqMask = s.irqMask := by
  obtain ⟨-, h⟩ | ⟨-, h⟩ := s.advance_cases <;> rw [h]
@[simp] theorem State.advance_flash (s : State) : s.advance.flash = s.flash := by
  obtain ⟨-, h⟩ | ⟨-, h⟩ := s.advance_cases <;> rw [h]
@[simp] theorem State.advance_inputs (s : State) : s.advance.inputs = s.inputs := by
  obtain ⟨-, h⟩ | ⟨-, h⟩ := s.advance_cases <;> rw [h]
@[simp] theorem State.advance_pending (s : State) : s.advance.pending = s.pending := by
  obtain ⟨-, h⟩ | ⟨-, h⟩ := s.advance_cases <;> rw [h]
@[simp] theorem State.advance_drawn (s : State) : s.advance.drawn = s.drawn := by
  obtain ⟨-, h⟩ | ⟨-, h⟩ := s.advance_cases <;> rw [h]
@[simp] theorem State.advance_patience (s : State) : s.advance.patience = s.patience := by
  obtain ⟨-, h⟩ | ⟨-, h⟩ := s.advance_cases <;> rw [h]

/-! ### Taking an error (R150 to R153) -/

/-- Everything taking an error does: the protocol state, and the re-arm unless the error is of the nack class. -/
theorem State.takeError_eq (s : State) (rearms : Bool) :
    s.takeError rearms =
      { s with st := .dropData, listen := rearms || s.listen,
               out := if rearms then some .enableListen else s.out } := by
  cases rearms <;> rfl

/-- A byte of a page read as a vector element is the live byte. -/
theorem State.page_getElem (s : State) (p : BitVec 2) (i : Fin 32) : (s.page p)[i] = s.readLive p i := rfl

end Sys2Proof.Machine
end

