-- ==== Sys2Proof/Laws/Flash.lean ====
section
/-! SUPPORT. The flash record: every store keeps the canonical form and answers the stored byte; what a commit's
program operations leave, byte by byte (spec/43_flash_store.md R138). -/

namespace Sys2Proof.Machine

/-! ### The canonical form -/

/-- Below the first address that may be listed every byte is erased. -/
theorem Memory.lookup_below (lo : Nat) (m : Memory) (hm : Memory.wfFrom lo m = true) (a : Nat) (ha : a < lo) :
    Memory.lookup m a = flashErasedByte := by
  induction m generalizing lo with
  | nil => rfl
  | cons c m ih =>
    obtain ⟨b, w⟩ := c
    simp only [Memory.wfFrom, Bool.and_eq_true, decide_eq_true_eq] at hm
    have hne : a ≠ b := by omega
    simp only [Memory.lookup, hne, if_false]
    exact ih (b + 1) hm.2 (by omega)

/-- A larger lower bound is a stronger form. -/
theorem Memory.wfFrom_mono (lo lo' : Nat) (m : Memory) (hm : Memory.wfFrom lo m = true) (h : lo' ≤ lo) :
    Memory.wfFrom lo' m = true := by
  cases m with
  | nil => rfl
  | cons c m =>
    obtain ⟨b, w⟩ := c
    simp only [Memory.wfFrom, Bool.and_eq_true, decide_eq_true_eq] at hm ⊢
    exact ⟨⟨⟨by omega, hm.1.1.2⟩, hm.1.2⟩, hm.2⟩

/-- A store keeps the canonical form. -/
theorem Memory.store_wfFrom (lo : Nat) (m : Memory) (hm : Memory.wfFrom lo m = true) (a : Nat) (v : Byte)
    (hlo : lo ≤ a) (ha : a < 20) : Memory.wfFrom lo (Memory.store m a v) = true := by
  induction m generalizing lo with
  | nil =>
    by_cases hv : v = flashErasedByte
    · simp [Memory.store, hv, Memory.wfFrom]
    · simp [Memory.store, hv, Memory.wfFrom, hlo, ha]
  | cons c m ih =>
    obtain ⟨b, w⟩ := c
    have hm' := hm
    simp only [Memory.wfFrom, Bool.and_eq_true, decide_eq_true_eq] at hm
    simp only [Memory.store]
    by_cases hab : a < b
    · by_cases hv : v = flashErasedByte
      · simp [hab, hv, hm']
      · simp only [hab, hv, if_true, if_false, Memory.wfFrom, Bool.and_eq_true, decide_eq_true_eq]
        exact ⟨⟨⟨hlo, ha⟩, by simpa using hv⟩, ⟨⟨by omega, hm.1.1.2⟩, hm.1.2⟩, hm.2⟩
    · by_cases heq : a = b
      · by_cases hv : v = flashErasedByte
        · simp [heq, hv]
          exact Memory.wfFrom_mono (b + 1) lo m hm.2 (by omega)
        · subst heq
          simp [hv, Memory.wfFrom, hlo, ha, hm.2]
      · simp only [hab, heq, if_false, Memory.wfFrom, Bool.and_eq_true, decide_eq_true_eq]
        exact ⟨hm.1, ih (b + 1) hm.2 (by omega)⟩

/-- Read after write on the record. -/
theorem Memory.lookup_store (lo : Nat) (m : Memory) (hm : Memory.wfFrom lo m = true) (a : Nat) (v : Byte) (x : Nat) :
    Memory.lookup (Memory.store m a v) x = if x = a then v else Memory.lookup m x := by
  induction m generalizing lo with
  | nil =>
    by_cases hv : v = flashErasedByte
    · subst hv; simp [Memory.store, Memory.lookup]
    · simp [Memory.store, Memory.lookup, hv]
  | cons c m ih =>
    obtain ⟨b, w⟩ := c
    simp only [Memory.wfFrom, Bool.and_eq_true, decide_eq_true_eq] at hm
    simp only [Memory.store]
    by_cases hab : a < b
    · by_cases hv : v = flashErasedByte
      · simp only [hab, hv, if_true]
        by_cases hx : x = a
        · subst hx
          have hne : x ≠ b := by omega
          simp only [Memory.lookup, hne, if_false, if_true]
          exact Memory.lookup_below (b + 1) m hm.2 x (by omega)
        · simp [hx]
      · simp [hab, hv, Memory.lookup]
    · by_cases heq : a = b
      · subst heq
        by_cases hv : v = flashErasedByte
        · simp only [hv, if_true, lt_irrefl, if_false]
          by_cases hx : x = a
          · subst hx; simp [Memory.lookup_below (x + 1) m hm.2 x (by omega)]
          · simp [hx, Memory.lookup]
        · by_cases hx : x = a <;> simp [hv, hx, Memory.lookup]
      · simp only [hab, heq, if_false, Memory.lookup]
        by_cases hx : x = b
        · have : x ≠ a := fun e => heq (e ▸ hx)
          simp only [hx, if_true, show ¬ b = a from fun e => heq e.symm, if_false]
        · simp only [hx, if_false, ih (b + 1) hm.2]

/-- A store at an address of the record keeps `Memory.wf`. -/
theorem Memory.store_wf (m : Memory) (hm : Memory.wf m = true) (a : Nat) (v : Byte) (ha : a < 20) :
    Memory.wf (Memory.store m a v) = true :=
  Memory.store_wfFrom 0 m hm a v (Nat.zero_le _) ha

/-- The erased record is in canonical form. -/
theorem Memory.erased_wf : Memory.wf Memory.erased = true := rfl

/-- The flash record of `State.reset` is in canonical form. -/
theorem State.reset_flash_wf : Memory.wf State.reset.flash = true := rfl

/-- A program operation keeps `Memory.wf`. -/
theorem Memory.storeUnit_wf (m : Memory) (hm : Memory.wf m = true) (k : Fin 5) (v : Word) :
    Memory.wf (m.storeUnit k v) = true := by
  have hk := k.isLt
  unfold Memory.storeUnit
  exact Memory.store_wf _ (Memory.store_wf _ (Memory.store_wf _ (Memory.store_wf _ hm _ _ (by omega)) _ _ (by omega)) _ _
    (by omega)) _ _ (by omega)

/-- A program operation writes the four bytes of its unit and no other. -/
theorem Memory.lookup_storeUnit (m : Memory) (hm : Memory.wf m = true) (k : Fin 5) (v : Word) (x : Nat) :
    Memory.lookup (m.storeUnit k v) x =
      if 4 * k.val ≤ x ∧ x < 4 * k.val + 4 then beByte v (x - 4 * k.val) else Memory.lookup m x := by
  have hk := k.isLt
  have h0 := Memory.store_wf m hm (4 * k.val) (beByte v 0) (by omega)
  have h1 := Memory.store_wf _ h0 (4 * k.val + 1) (beByte v 1) (by omega)
  have h2 := Memory.store_wf _ h1 (4 * k.val + 2) (beByte v 2) (by omega)
  unfold Memory.storeUnit
  rw [Memory.lookup_store 0 _ h2, Memory.lookup_store 0 _ h1, Memory.lookup_store 0 _ h0, Memory.lookup_store 0 _ hm]
  by_cases e3 : x = 4 * k.val + 3
  · simp [e3]
  · by_cases e2 : x = 4 * k.val + 2
    · simp [e2]
    · by_cases e1 : x = 4 * k.val + 1
      · simp [e1]
      · by_cases e0 : x = 4 * k.val
        · simp [e0]
        · have : ¬ (4 * k.val ≤ x ∧ x < 4 * k.val + 4) := by omega
          simp [e0, e1, e2, e3, this]

/-- The program operations keep `Memory.wf`. -/
theorem programUnits_wf (src : Fin 5 → Word) (d : FlashDraws) (ks : List (Fin 5)) (m : Memory)
    (hm : Memory.wf m = true) : Memory.wf (programUnits src d ks m).1 = true := by
  induction ks generalizing m with
  | nil => exact hm
  | cons k ks ih =>
    simp only [programUnits]
    split
    · exact ih _ (Memory.storeUnit_wf m hm k _)
    · exact Memory.storeUnit_wf m hm k _

/-- A commit keeps `Memory.wf`, whatever the outcomes. -/
theorem State.commitFlash_wf (s : State) (d : FlashDraws) (h : Memory.wf s.flash = true) :
    Memory.wf (s.commitFlash d).1 = true := by
  unfold State.commitFlash
  split
  · exact programUnits_wf _ _ _ _ Memory.erased_wf
  · exact h

/-! ### The bytes of a unit -/

theorem beByte_wordOf_0 (a b c d : Byte) : beByte (wordOf a b c d) 0 = a := by
  unfold beByte wordOf; ext i hi; simp; grind
theorem beByte_wordOf_1 (a b c d : Byte) : beByte (wordOf a b c d) 1 = b := by
  unfold beByte wordOf; ext i hi; simp; grind
theorem beByte_wordOf_2 (a b c d : Byte) : beByte (wordOf a b c d) 2 = c := by
  unfold beByte wordOf; ext i hi; simp; grind
theorem beByte_wordOf_3 (a b c d : Byte) : beByte (wordOf a b c d) 3 = d := by
  unfold beByte wordOf; ext i hi; simp; grind

/-- Byte `x` of unit `k` of a commit's source is byte `4k + x` of the image. -/
theorem State.beByte_commitUnit (s : State) (k : Fin 5) (x : Fin 4) :
    beByte (s.commitUnit k) x.val = s.commitByte ⟨4 * k.val + x.val, by omega⟩ := by
  unfold State.commitUnit
  match x with
  | 0 => exact beByte_wordOf_0 _ _ _ _
  | 1 => exact beByte_wordOf_1 _ _ _ _
  | 2 => exact beByte_wordOf_2 _ _ _ _
  | 3 => exact beByte_wordOf_3 _ _ _ _

/-! ### What a commit leaves -/

/-- The status of a commit (R154): erase failure, write failure or success. -/
theorem State.commitFlash_status (s : State) (d : FlashDraws) :
    (s.commitFlash d).2 =
      if d.eraseOk = false then stEraseFail else if ∀ k : Fin 5, d.progOk[k] = true then stOk else stWriteFail := by
  unfold State.commitFlash unitOrder
  cases he : d.eraseOk
  · simp
  · by_cases h0 : d.progOk[(0 : Fin 5)] <;> by_cases h1 : d.progOk[(1 : Fin 5)] <;>
      by_cases h2 : d.progOk[(2 : Fin 5)] <;> by_cases h3 : d.progOk[(3 : Fin 5)] <;>
      by_cases h4 : d.progOk[(4 : Fin 5)] <;> simp_all [programUnits, Fin.forall_fin_succ]

/-- A byte outside every listed unit is not touched by the program operations. -/
theorem lookup_programUnits_outside (src : Fin 5 → Word) (d : FlashDraws) (ks : List (Fin 5)) (m : Memory)
    (hm : Memory.wf m = true) (x : Nat) (hx : ∀ k ∈ ks, k.val ≠ x / 4) :
    Memory.lookup (programUnits src d ks m).1 x = Memory.lookup m x := by
  induction ks generalizing m with
  | nil => rfl
  | cons k ks ih =>
    have hk : ¬ (4 * k.val ≤ x ∧ x < 4 * k.val + 4) := by
      have := hx k (by simp)
      omega
    simp only [programUnits]
    split
    · rw [ih _ (Memory.storeUnit_wf m hm k _) (fun j hj => hx j (by simp [hj])), Memory.lookup_storeUnit m hm, if_neg hk]
    · rw [Memory.lookup_storeUnit m hm, if_neg hk]

/-- The byte `x` of unit `k` after the program operations: untouched when an earlier unit failed, else the source's
byte or, when the unit itself failed, the drawn byte. -/
theorem lookup_programUnits (src : Fin 5 → Word) (d : FlashDraws) (pre post : List (Fin 5)) (k : Fin 5) (m : Memory)
    (hm : Memory.wf m = true) (x : Nat) (hk : k.val = x / 4) (hpre : ∀ j ∈ pre, j.val ≠ x / 4)
    (hpost : ∀ j ∈ post, j.val ≠ x / 4) :
    Memory.lookup (programUnits src d (pre ++ k :: post) m).1 x =
      if ∀ j ∈ pre, d.progOk[j] = true then
        if d.progOk[k] = true then beByte (src k) (x % 4) else beByte d.junk[k] (x % 4)
      else Memory.lookup m x := by
  induction pre generalizing m with
  | nil =>
    have hin : 4 * k.val ≤ x ∧ x < 4 * k.val + 4 := by omega
    have hmod : x - 4 * k.val = x % 4 := by omega
    simp only [List.nil_append, programUnits, List.not_mem_nil, false_imp_iff, implies_true, if_true]
    split
    · rw [lookup_programUnits_outside src d post _ (Memory.storeUnit_wf m hm k _) x hpost, Memory.lookup_storeUnit m hm,
        if_pos hin, hmod]
    · rw [Memory.lookup_storeUnit m hm, if_pos hin, hmod]
  | cons p pre ih =>
    have hout : ¬ (4 * p.val ≤ x ∧ x < 4 * p.val + 4) := by
      have := hpre p (by simp)
      omega
    simp only [List.cons_append, programUnits, List.mem_cons, forall_eq_or_imp]
    by_cases hp : d.progOk[p] = true
    · rw [if_pos hp, ih _ (Memory.storeUnit_wf m hm p _) (fun j hj => hpre j (by simp [hj])),
        Memory.lookup_storeUnit m hm, if_neg hout]
      simp only [hp, true_and]
    · rw [if_neg hp, Memory.lookup_storeUnit m hm, if_neg hout]
      simp only [hp, false_and, if_false, Bool.false_eq_true]

/-- The record after a commit whose erase succeeded (R138), byte by byte. -/
theorem State.lookup_commitFlash (s : State) (d : FlashDraws) (he : d.eraseOk = true) (i : Fin 20) (k : Fin 5)
    (hk : k.val = i.val / 4) :
    Memory.lookup (s.commitFlash d).1 i.val =
      if ∀ j : Fin 5, j.val < k.val → d.progOk[j] = true then
        if d.progOk[k] = true then s.commitByte i else beByte d.junk[k] (i.val % 4)
      else flashErasedByte := by
  have hsrc : beByte (s.commitUnit k) (i.val % 4) = s.commitByte i := by
    rw [show i.val % 4 = (⟨i.val % 4, by omega⟩ : Fin 4).val from rfl, State.beByte_commitUnit]
    congr 1
    exact Fin.ext (by simp only; omega)
  have hx : ∀ j : Fin 5, (j.val ≠ i.val / 4) ↔ j ≠ k := by
    intro j; rw [← hk]; exact not_congr (Fin.ext_iff.symm)
  unfold State.commitFlash unitOrder
  rw [if_pos he]
  have split5 : ∃ pre post : List (Fin 5), [0, 1, 2, 3, 4] = pre ++ k :: post ∧ k ∉ pre ∧ k ∉ post ∧
      ∀ j : Fin 5, j ∈ pre ↔ j.val < k.val := by
    match k with
    | 0 => exact ⟨[], [1, 2, 3, 4], by decide⟩
    | 1 => exact ⟨[0], [2, 3, 4], by decide⟩
    | 2 => exact ⟨[0, 1], [3, 4], by decide⟩
    | 3 => exact ⟨[0, 1, 2], [4], by decide⟩
    | 4 => exact ⟨[0, 1, 2, 3], [], by decide⟩
  obtain ⟨pre, post, hsplit, hnpre, hnpost, hmem⟩ := split5
  rw [hsplit, lookup_programUnits s.commitUnit d pre post k _ Memory.erased_wf i.val hk
    (fun j hj => (hx j).2 (fun e => hnpre (e ▸ hj))) (fun j hj => (hx j).2 (fun e => hnpost (e ▸ hj))), hsrc]
  simp only [hmem]
  rfl

end Sys2Proof.Machine
end

