-- ==== Sys2Proof/Laws/Exec.lean ====
section
/-! SUPPORT. What running an operation can do, said once: the state it answers, and which operations can change each
field that few of them change. -/

namespace Sys2Proof.Machine

/-- Every operation answers a next state. -/
theorem exec_next (i : Instr) (s : State) : ∃ t, exec i s = .next t := by
  cases i <;> simp only [exec, execReset, execAddrW, execAddrR, execSetpos, execSelpage, execStFreq, execStTcxoCoef,
    execStTcxoTemp, execStTcxoRmse, execSave, execIgn, execRxdrop, execTxbyte, execTxfill, execStop, execErrAf,
    execErrBus, execAbort, execCapture1, execCapture2, execCapture3, execAdc, execFlashCommit] <;>
    first | exact ⟨_, rfl⟩ | (split <;> exact ⟨_, rfl⟩)

/-! ### The three operations that decide whether they run -/

/-- `ADDR.W` (R80): armed, or turned away. -/
theorem execAddrW_cases (s : State) :
    (s.listen = true ∧ execAddrW s = .next ({ s with st := .getAddr }.emit .requestRx)) ∨
      (s.listen = false ∧ execAddrW s = .next s) := by
  unfold execAddrW
  cases h : s.listen <;> simp

/-- `ADDR.R` (R81): armed, or turned away. -/
theorem execAddrR_cases (s : State) :
    (s.listen = true ∧ execAddrR s = .next ({ s with st := .sendData, txi := 0 }.emit .startTx)) ∨
      (s.listen = false ∧ execAddrR s = .next s) := by
  unfold execAddrR
  cases h : s.listen <;> simp

/-- `FLASH.COMMIT` (R137): enabled exactly when a save is pending and interrupts are not masked. -/
theorem commitEnabled_iff (s : State) : s.commitEnabled = true ↔ s.saveByte ≠ 0 ∧ s.irqMask = false := by
  unfold State.commitEnabled
  cases s.irqMask <;> simp

/-- `FLASH.COMMIT` (R137, R138): enabled and run, or nothing. -/
theorem execFlashCommit_cases (d : FlashDraws) (s : State) :
    (s.saveByte ≠ 0 ∧ s.irqMask = false ∧
        execFlashCommit d s = .next ({ s with flash := (s.commitFlash d).1 }.recordCommit (s.commitFlash d).2)) ∨
      ((s.saveByte = 0 ∨ s.irqMask = true) ∧ execFlashCommit d s = .next s) := by
  unfold execFlashCommit
  by_cases h : s.commitEnabled = true
  · rw [if_pos h]
    exact .inl ⟨((commitEnabled_iff s).1 h).1, ((commitEnabled_iff s).1 h).2, rfl⟩
  · rw [if_neg h]
    refine .inr ⟨?_, rfl⟩
    by_cases hs : s.saveByte = 0
    · exact .inl hs
    · cases hm : s.irqMask
      · exact absurd ((commitEnabled_iff s).2 ⟨hs, hm⟩) h
      · exact .inr rfl

/-! ### The data bytes -/

/-- Every data byte's operation ends in the tail of R83, on a state with the old cursor, protocol state, action, schedule
and flash record. -/
theorem exec_dataOp (c : Ctx) (b : Byte) (s : State) :
    ∃ u : State, exec (dataOp c b) s = .next u.advance ∧ u.pos = s.pos ∧ u.st = s.st ∧ u.out = s.out ∧
      u.pending = s.pending ∧ u.flash = s.flash := by
  unfold dataOp
  split_ifs <;> exact ⟨_, rfl, by simp⟩

/-! ### Two states with the same live pages -/

/-- A live byte depends on the live pages only. -/
theorem State.readLive_of_live (s t : State) (h : s.live = t.live) (p : BitVec 2) (i : Fin 32) :
    s.readLive p i = t.readLive p i := by
  unfold State.readLive State.page; simp only [h]

/-- Two states whose live bytes agree have the same live pages. -/
theorem State.live_ext (s t : State) (h : ∀ (p : BitVec 2) (i : Fin 32), s.readLive p i = t.readLive p i) :
    s.live = t.live := by
  apply Vector.ext
  intro p hp
  apply Vector.ext
  intro i hi
  have := h (BitVec.ofNat 2 p) ⟨i, hi⟩
  unfold State.readLive State.page at this
  simpa [Nat.mod_eq_of_lt hp] using this

/-! ### The stores of device events do not depend on the protocol fields or the transmit buffer -/

variable (s : State) (cur : BitVec 2) (st : Phase) (pos : BitVec 9) (txi : BitVec 6) (x : Page)

theorem State.writeLive_withProtocol (p : BitVec 2) (i : Fin 32) (v : Byte) :
    (s.withProtocol cur st pos txi).writeLive p i v = (s.writeLive p i v).withProtocol cur st pos txi := rfl
theorem State.writeF16_withProtocol (p : BitVec 2) (o : Nat) (v : Half) (h : o + 1 < 32) :
    (s.withProtocol cur st pos txi).writeF16 p o v h = (s.writeF16 p o v h).withProtocol cur st pos txi := by
  unfold State.writeF16; simp only [State.writeLive_withProtocol]
theorem State.writeF32_withProtocol (p : BitVec 2) (o : Nat) (v : Word) (h : o + 3 < 32) :
    (s.withProtocol cur st pos txi).writeF32 p o v h = (s.writeF32 p o v h).withProtocol cur st pos txi := by
  unfold State.writeF32; simp only [State.writeLive_withProtocol]
theorem State.captureCommon_withProtocol (c : Fin 3) (v : Half) :
    (s.withProtocol cur st pos txi).captureCommon c v = (s.captureCommon c v).withProtocol cur st pos txi := by
  unfold State.captureCommon; simp only [State.writeF16_withProtocol]; rfl
theorem State.bumpRollover_withProtocol (i : Fin 32) :
    (s.withProtocol cur st pos txi).bumpRollover i = (s.bumpRollover i).withProtocol cur st pos txi := by
  unfold State.bumpRollover; rw [State.writeLive_withProtocol]; rfl
theorem State.recordCommit_withProtocol (v : Byte) :
    (s.withProtocol cur st pos txi).recordCommit v = (s.recordCommit v).withProtocol cur st pos txi := by
  unfold State.recordCommit; simp only [State.writeLive_withProtocol]

theorem State.writeLive_withTx (p : BitVec 2) (i : Fin 32) (v : Byte) :
    (s.withTx x).writeLive p i v = (s.writeLive p i v).withTx x := rfl
theorem State.writeF16_withTx (p : BitVec 2) (o : Nat) (v : Half) (h : o + 1 < 32) :
    (s.withTx x).writeF16 p o v h = (s.writeF16 p o v h).withTx x := by
  unfold State.writeF16; simp only [State.writeLive_withTx]
theorem State.writeF32_withTx (p : BitVec 2) (o : Nat) (v : Word) (h : o + 3 < 32) :
    (s.withTx x).writeF32 p o v h = (s.writeF32 p o v h).withTx x := by
  unfold State.writeF32; simp only [State.writeLive_withTx]
theorem State.captureCommon_withTx (c : Fin 3) (v : Half) :
    (s.withTx x).captureCommon c v = (s.captureCommon c v).withTx x := by
  unfold State.captureCommon; simp only [State.writeF16_withTx]; rfl
theorem State.bumpRollover_withTx (i : Fin 32) :
    (s.withTx x).bumpRollover i = (s.bumpRollover i).withTx x := by
  unfold State.bumpRollover; rw [State.writeLive_withTx]; rfl
theorem State.recordCommit_withTx (v : Byte) :
    (s.withTx x).recordCommit v = (s.recordCommit v).withTx x := by
  unfold State.recordCommit; simp only [State.writeLive_withTx]

theorem State.refresh_withTx (p : BitVec 2) : (s.withTx x).refresh p = (s.refresh p).withTx x := by
  unfold State.refresh
  split_ifs
  · exact State.writeF32_withTx s x _ _ _ _
  · rw [State.writeF16_withTx, State.writeF16_withTx]; rfl
  · rfl

theorem State.advance_withTx : (s.withTx x).advance = s.advance.withTx x := by
  obtain ⟨h, e⟩ | ⟨h, e⟩ := s.advance_cases <;> obtain ⟨h', e'⟩ | ⟨h', e'⟩ := (s.withTx x).advance_cases <;> rw [e, e']
  · rfl
  · exact absurd h h'
  · exact absurd h' h
  · rfl

/-- Putting a state's own transmit buffer back changes nothing. -/
theorem State.withTx_tx (t : State) : t.withTx t.tx = t := rfl

theorem State.withTx_withTx (t : State) (y : Page) : (t.withTx x).withTx y = t.withTx y := rfl

end Sys2Proof.Machine
end

