-- ==== Sys2Proof/Laws/PerInstr.lean ====
section
/-! SUPPORT. Per operation: its decode word, in every context that admits it, matches the row of spec/opcode_table.json
that it stands for (spec/30_encoding.md R67, R68). That no earlier row matches is a statement of its own. -/

namespace Sys2Proof.Laws.RowMatch

open Sys2Proof Sys2Proof.Machine

/-- The row of `opcodeTable` with the operation's number matches the operation's decode word. -/
def Statement (i : Instr) : Prop :=
  ∀ c : Ctx, i.wf c = true → ∃ r ∈ opcodeTable, r.order = i.row ∧ decodeWord c i.event &&& r.mask = r.pattern

/-- From a mask and a pattern given field by field. -/
theorem of_fields (i : Instr) (r : OpcodeRow) (hr : r ∈ opcodeTable) (ho : r.order = i.row) (ke : BitVec 4) (ks : BitVec 3)
    (kc : BitVec 2) (kp : Byte) (pe : BitVec 4) (ps : BitVec 3) (pc : BitVec 2) (pp : Byte)
    (hm : r.mask = ke ++ ks ++ kc ++ kp) (hp : r.pattern = pe ++ ps ++ pc ++ pp)
    (h : ∀ c : Ctx, i.wf c = true → i.event.code &&& ke = pe ∧ c.st.code &&& ks = ps ∧ c.cur &&& kc = pc ∧ c.pos &&& kp = pp) :
    Statement i := by
  intro c hw
  obtain ⟨h1, h2, h3, h4⟩ := h c hw
  exact ⟨r, hr, ho, by rw [hm, hp, decodeWord_and, h1, h2, h3, h4]⟩

/-- A byte below 256 is known from its number. -/
theorem byte_eq (p : Byte) (n : Nat) (h : p.toNat = n) : p = BitVec.ofNat 8 n := by
  apply BitVec.eq_of_toNat_eq; simp; omega

theorem reset : Statement .reset := by
  refine of_fields _ ⟨1, "RESET", 0x00000, 0x1E000⟩ (by decide) rfl 0xF 0x0 0x0 0x00 0x0 0x0 0x0 0x00 rfl rfl ?_
  intro c hw
  simp [Instr.event, Event.code]

theorem addrW : Statement .addrW := by
  refine of_fields _ ⟨2, "ADDR.W", 0x02000, 0x1E000⟩ (by decide) rfl 0xF 0x0 0x0 0x00 0x1 0x0 0x0 0x00 rfl rfl ?_
  intro c hw
  simp [Instr.event, Event.code]

theorem addrR : Statement .addrR := by
  refine of_fields _ ⟨3, "ADDR.R", 0x04000, 0x1E000⟩ (by decide) rfl 0xF 0x0 0x0 0x00 0x2 0x0 0x0 0x00 rfl rfl ?_
  intro c hw
  simp [Instr.event, Event.code]

theorem setpos (b : Byte) : Statement (.setpos b) := by
  refine of_fields _ ⟨4, "SETPOS", 0x06400, 0x1FC00⟩ (by decide) rfl 0xF 0x7 0x0 0x00 0x3 0x1 0x0 0x00 rfl rfl ?_
  intro c hw
  simp only [Instr.wf, beq_iff_eq] at hw
  simp [Instr.event, Event.code, hw, Phase.code]

theorem selpage (b : Byte) : Statement (.selpage b) := by
  refine of_fields _ ⟨5, "SELPAGE", 0x0681F, 0x1FCFF⟩ (by decide) rfl 0xF 0x7 0x0 0xFF 0x3 0x2 0x0 0x1F rfl rfl ?_
  intro c hw
  simp only [Instr.wf, Bool.and_eq_true, beq_iff_eq] at hw
  simp [Instr.event, Event.code, hw.1, byte_eq _ _ hw.2, Phase.code, selOffset]

theorem stFreq (a : BitVec 1) (b : Byte) : Statement (.stFreq a b) := by
  refine of_fields _ ⟨6, "ST.FREQ", 0x0681A, 0x1FFFE⟩ (by decide) rfl 0xF 0x7 0x3 0xFE 0x3 0x2 0x0 0x1A rfl rfl ?_
  intro c hw
  simp only [Instr.wf, Bool.and_eq_true, beq_iff_eq, c.atFreq_iff] at hw
  obtain ⟨⟨h1, h2, -⟩, h3⟩ := hw
  rw [byte_eq _ _ h3, h1, h2]
  clear h3
  simp only [Instr.event, Event.code]
  revert a; decide

theorem stTcxoCoef (a : BitVec 4) (b : Byte) : Statement (.stTcxoCoef a b) := by
  refine of_fields _ ⟨7, "ST.TCXO", 0x06A00, 0x1FFF0⟩ (by decide) rfl 0xF 0x7 0x3 0xF0 0x3 0x2 0x2 0x00 rfl rfl ?_
  intro c hw
  simp only [Instr.wf, Bool.and_eq_true, beq_iff_eq] at hw
  obtain ⟨⟨h1, h2⟩, h3⟩ := hw
  rw [byte_eq _ _ h3, h1, h2]
  clear h3
  simp only [Instr.event, Event.code]
  revert a; decide

theorem stTcxoTemp (a : BitVec 1) (b : Byte) : Statement (.stTcxoTemp a b) := by
  refine of_fields _ ⟨8, "ST.TCXO", 0x06A10, 0x1FFFE⟩ (by decide) rfl 0xF 0x7 0x3 0xFE 0x3 0x2 0x2 0x10 rfl rfl ?_
  intro c hw
  simp only [Instr.wf, Bool.and_eq_true, beq_iff_eq] at hw
  obtain ⟨⟨h1, h2⟩, h3⟩ := hw
  rw [byte_eq _ _ h3, h1, h2]
  clear h3
  simp only [Instr.event, Event.code]
  revert a; decide

theorem stTcxoRmse (b : Byte) : Statement (.stTcxoRmse b) := by
  refine of_fields _ ⟨9, "ST.TCXO", 0x06A12, 0x1FFFF⟩ (by decide) rfl 0xF 0x7 0x3 0xFF 0x3 0x2 0x2 0x12 rfl rfl ?_
  intro c hw
  simp only [Instr.wf, Bool.and_eq_true, beq_iff_eq] at hw
  simp [Instr.event, Event.code, hw.1.1, hw.1.2, byte_eq _ _ hw.2, Phase.code]

theorem save (b : Byte) : Statement (.save b) := by
  refine of_fields _ ⟨10, "SAVE", 0x06A13, 0x1FFFF⟩ (by decide) rfl 0xF 0x7 0x3 0xFF 0x3 0x2 0x2 0x13 rfl rfl ?_
  intro c hw
  simp only [Instr.wf, Bool.and_eq_true, beq_iff_eq] at hw
  simp [Instr.event, Event.code, hw.1.1, hw.1.2, byte_eq _ _ hw.2, Phase.code, saveOffset]

theorem ign (b : Byte) : Statement (.ign b) := by
  refine of_fields _ ⟨11, "IGN", 0x06800, 0x1FC00⟩ (by decide) rfl 0xF 0x7 0x0 0x00 0x3 0x2 0x0 0x00 rfl rfl ?_
  intro c hw
  simp only [Instr.wf, Bool.and_eq_true, beq_iff_eq] at hw
  simp [Instr.event, Event.code, hw.1.1.1, Phase.code]

theorem rxdrop (b : Byte) : Statement (.rxdrop b) := by
  refine of_fields _ ⟨12, "RXDROP", 0x06000, 0x1E000⟩ (by decide) rfl 0xF 0x0 0x0 0x00 0x3 0x0 0x0 0x00 rfl rfl ?_
  intro c hw
  simp [Instr.event, Event.code]

theorem txbyte : Statement .txbyte := by
  refine of_fields _ ⟨13, "TXBYTE", 0x08C00, 0x1FC00⟩ (by decide) rfl 0xF 0x7 0x0 0x00 0x4 0x3 0x0 0x00 rfl rfl ?_
  intro c hw
  simp only [Instr.wf, beq_iff_eq] at hw
  simp [Instr.event, Event.code, hw, Phase.code]

theorem txfill : Statement .txfill := by
  refine of_fields _ ⟨14, "TXFILL", 0x08000, 0x1E000⟩ (by decide) rfl 0xF 0x0 0x0 0x00 0x4 0x0 0x0 0x00 rfl rfl ?_
  intro c hw
  simp [Instr.event, Event.code]

theorem stop : Statement .stop := by
  refine of_fields _ ⟨15, "STOP", 0x0A000, 0x1E000⟩ (by decide) rfl 0xF 0x0 0x0 0x00 0x5 0x0 0x0 0x00 rfl rfl ?_
  intro c hw
  simp [Instr.event, Event.code]

theorem errAf : Statement .errAf := by
  refine of_fields _ ⟨16, "ERR.AF", 0x0C000, 0x1E000⟩ (by decide) rfl 0xF 0x0 0x0 0x00 0x6 0x0 0x0 0x00 rfl rfl ?_
  intro c hw
  simp [Instr.event, Event.code]

theorem errBus : Statement .errBus := by
  refine of_fields _ ⟨17, "ERR.BUS", 0x0E000, 0x1E000⟩ (by decide) rfl 0xF 0x0 0x0 0x00 0x7 0x0 0x0 0x00 rfl rfl ?_
  intro c hw
  simp [Instr.event, Event.code]

theorem abort : Statement .abort := by
  refine of_fields _ ⟨18, "ABORT", 0x10000, 0x1E000⟩ (by decide) rfl 0xF 0x0 0x0 0x00 0x8 0x0 0x0 0x00 rfl rfl ?_
  intro c hw
  simp [Instr.event, Event.code]

theorem capture1 (v : Half) : Statement (.capture1 v) := by
  refine of_fields _ ⟨19, "CAPTURE.1", 0x12000, 0x1E000⟩ (by decide) rfl 0xF 0x0 0x0 0x00 0x9 0x0 0x0 0x00 rfl rfl ?_
  intro c hw
  simp [Instr.event, Event.code]

theorem capture2 (v : Half) : Statement (.capture2 v) := by
  refine of_fields _ ⟨20, "CAPTURE.2", 0x14000, 0x1E000⟩ (by decide) rfl 0xF 0x0 0x0 0x00 0xA 0x0 0x0 0x00 rfl rfl ?_
  intro c hw
  simp [Instr.event, Event.code]

theorem capture3 (v : Half) : Statement (.capture3 v) := by
  refine of_fields _ ⟨21, "CAPTURE.3", 0x16000, 0x1E000⟩ (by decide) rfl 0xF 0x0 0x0 0x00 0xB 0x0 0x0 0x00 rfl rfl ?_
  intro c hw
  simp [Instr.event, Event.code]

theorem adc (t v x : Half) : Statement (.adc t v x) := by
  refine of_fields _ ⟨22, "ADC", 0x18000, 0x1E000⟩ (by decide) rfl 0xF 0x0 0x0 0x00 0xC 0x0 0x0 0x00 rfl rfl ?_
  intro c hw
  simp [Instr.event, Event.code]

theorem flashCommit (d : FlashDraws) : Statement (.flashCommit d) := by
  refine of_fields _ ⟨23, "FLASH.COMMIT", 0x1A000, 0x1E000⟩ (by decide) rfl 0xF 0x0 0x0 0x00 0xD 0x0 0x0 0x00 rfl rfl ?_
  intro c hw
  simp [Instr.event, Event.code]

end Sys2Proof.Laws.RowMatch
end

