-- ==== Sys2Proof/Laws/Reset.lean ====
section
/-! SUPPORT. What the reset sequence leaves, byte by byte and field by field (spec/70_reset_and_hazards.md R180). -/

namespace Sys2Proof.Machine

variable (s : State)

/-- Step 1 leaves zero in every live byte. -/
theorem State.readLive_resetZero (q : BitVec 2) (j : Fin 32) : s.resetZero.readLive q j = 0 := by
  unfold State.readLive State.page State.resetZero; simp

/-- The state that step 6 finds. -/
theorem State.resetSequence_eq :
    s.resetSequence = (((s.resetZero.resetSelectors.resetPrimary.resetCal.flashLoad 19 (by decide)).refresh 0).snapshot
      0).rearm := rfl

/-- Every live byte after reset (R29). -/
theorem State.readLive_resetSequence (q : BitVec 2) (j : Fin 32) :
    s.resetSequence.readLive q j =
      if q = 0 then
        if j.val < 4 then leByte s.inputs.tick32 j.val else if j.val = 30 then Config.protocolVersion else 0
      else if q = 1 then
        if 10 ≤ j.val ∧ j.val < 12 then leByte (Config.cal 0) (j.val - 10)
        else if 12 ≤ j.val ∧ j.val < 14 then leByte (Config.cal 1) (j.val - 12)
        else if 14 ≤ j.val ∧ j.val < 16 then leByte (Config.cal 2) (j.val - 14)
        else if j.val = 31 then 1 else 0
      else if q = 2 then if j.val < 19 then Memory.lookup s.flash j.val else if j.val = 31 then 2 else 0
      else if j.val = 31 then 3 else 0 := by
  have hin : (s.resetZero.resetSelectors.resetPrimary.resetCal.flashLoad 19 (by decide)).inputs = s.inputs := by
    rw [State.flashLoad_eq]; rfl
  have hflash : s.resetZero.flash = s.flash := rfl
  rw [State.resetSequence_eq]
  simp only [State.rearm_readLive, State.snapshot_readLive, State.readLive_refresh, hin, State.readLive_flashLoad]
  simp only [State.resetCal, State.resetPrimary, State.resetSelectors, State.readLive_writeF16,
    State.readLive_writeLive, selOffset, versionOffset, freqOffset, Fin.ext_iff, State.readLive_resetZero,
    State.writeF16_flash, State.writeLive_flash]
  have hfreq : ∀ k, k < 2 → leByte defaultSrcFreq k = 0 := by decide
  have hq : q = 0 ∨ q = 1 ∨ q = 2 ∨ q = 3 := by revert q; decide
  rcases hq with rfl | rfl | rfl | rfl
  · simp
    by_cases h26 : 26 ≤ j.val ∧ j.val < 28
    · rw [hfreq _ (by omega)]; split_ifs <;> first | rfl | omega
    · split_ifs; all_goals rfl
  · simp
    split_ifs <;> first | rfl | omega
  · simp [hflash]
  · simp

@[simp] theorem State.resetSequence_tx : s.resetSequence.tx = s.resetSequence.page 0 := rfl
@[simp] theorem State.resetSequence_cur : s.resetSequence.cur = 0 := by
  rw [State.resetSequence_eq, State.flashLoad_eq]; simp; rfl
@[simp] theorem State.resetSequence_st : s.resetSequence.st = .waiting := by
  rw [State.resetSequence_eq, State.flashLoad_eq]; simp; rfl
@[simp] theorem State.resetSequence_pos : s.resetSequence.pos = 0 := by
  rw [State.resetSequence_eq, State.flashLoad_eq]; simp; rfl
@[simp] theorem State.resetSequence_txi : s.resetSequence.txi = 0 := by
  rw [State.resetSequence_eq, State.flashLoad_eq]; simp; rfl
@[simp] theorem State.resetSequence_listen : s.resetSequence.listen = true := rfl
@[simp] theorem State.resetSequence_irqMask : s.resetSequence.irqMask = false := rfl
@[simp] theorem State.resetSequence_out : s.resetSequence.out = some .enableListen := rfl
@[simp] theorem State.resetSequence_flash : s.resetSequence.flash = s.flash := by
  rw [State.resetSequence_eq, State.flashLoad_eq]; simp; rfl
@[simp] theorem State.resetSequence_inputs : s.resetSequence.inputs = s.inputs := by
  rw [State.resetSequence_eq, State.flashLoad_eq]; simp; rfl
@[simp] theorem State.resetSequence_pending : s.resetSequence.pending = s.pending := by
  rw [State.resetSequence_eq, State.flashLoad_eq]; simp; rfl
@[simp] theorem State.resetSequence_drawn : s.resetSequence.drawn = s.drawn := by
  rw [State.resetSequence_eq, State.flashLoad_eq]; simp; rfl
@[simp] theorem State.resetSequence_patience : s.resetSequence.patience = s.patience := by
  rw [State.resetSequence_eq, State.flashLoad_eq]; simp; rfl

/-- No operation writes the schedule or the sampled inputs. -/
theorem exec_schedule (i : Instr) (s t : State) (h : exec i s = .next t) : s.SameSchedule t := by
  unfold State.SameSchedule
  cases i
  case addrW =>
    obtain ⟨-, e⟩ | ⟨-, e⟩ := execAddrW_cases s <;> (injection e.symm.trans h with h; subst h; exact ⟨rfl, rfl, rfl, rfl⟩)
  case addrR =>
    obtain ⟨-, e⟩ | ⟨-, e⟩ := execAddrR_cases s <;> (injection e.symm.trans h with h; subst h; exact ⟨rfl, rfl, rfl, rfl⟩)
  case flashCommit d =>
    obtain ⟨-, -, e⟩ | ⟨-, e⟩ := execFlashCommit_cases d s <;> (injection e.symm.trans h with h; subst h; exact ⟨rfl, rfl, rfl, rfl⟩)
  case rxdrop => injection h with h; subst h; exact ⟨rfl, rfl, rfl, rfl⟩
  all_goals (injection h with h; subst h; simp [State.takeError_eq])

end Sys2Proof.Machine
end

