-- ==== Sys2Proof/Laws/Step.lean ====
section
/-! SUPPORT. What a step can do, said once: the arrival waits, or its operation runs. -/

namespace Sys2Proof.Machine

/-- A step holds the next arrival or runs the operation it decodes to. -/
theorem step_cases (s : State) :
    (s.irqMask = true ∧ s.nextArrival.event ≠ .reset ∧ step s = .next (s.hold s.nextArrival)) ∨
      ((s.irqMask = false ∨ s.nextArrival.event = .reset) ∧
        step s = exec (select s.ctx s.nextArrival.event) (s.take s.nextArrival)) := by
  unfold step
  by_cases h : s.held s.nextArrival = true
  · rw [if_pos h]
    simp only [State.held, Bool.and_eq_true, bne_iff_ne, ne_eq] at h
    exact .inl ⟨h.1, h.2, rfl⟩
  · rw [if_neg h]
    refine .inr ⟨?_, rfl⟩
    by_cases hm : s.irqMask = true
    · right
      by_contra he
      exact h (by simp [State.held, hm, he])
    · exact .inl (by simpa using hm)

/-! ### Which arrival a step takes -/

/-- A listed arrival comes first. -/
theorem State.nextArrival_listed (s : State) (a : Arrival) (rest : List Arrival) (hp : s.pending = a :: rest) :
    s.nextArrival = a := by simp [State.nextArrival, hp]

/-- Taking a listed arrival leaves the free schedule and the patience. -/
theorem State.take_listed (s : State) (a b : Arrival) (rest : List Arrival) (hp : s.pending = b :: rest) :
    s.take a = { s with inputs := a.inputs, out := none, pending := rest } := by
  simp [State.take, State.drawnAfter, State.patienceAfter, hp]

/-- Holding the listed arrival leaves the schedule as it is. -/
theorem State.hold_listed (s : State) (a : Arrival) (rest : List Arrival) (hp : s.pending = a :: rest) :
    s.hold a = { s with out := none } := by
  cases s
  simp_all [State.hold, State.drawnAfter, State.patienceAfter]

/-- With interrupts enabled a step runs the first listed arrival's operation. -/
theorem step_pending (s : State) (a : Arrival) (rest : List Arrival) (hp : s.pending = a :: rest)
    (hm : s.irqMask = false) :
    step s = exec (select s.ctx a.event) { s with inputs := a.inputs, out := none, pending := rest } := by
  obtain ⟨h, -⟩ | ⟨-, h⟩ := step_cases s
  · exact absurd (h.symm.trans hm) (by decide)
  · rw [h, s.nextArrival_listed a rest hp, s.take_listed a a rest hp]

/-- A commit is due exactly when it is enabled and the patience is used up (R137). -/
theorem State.commitDue_iff (s : State) :
    s.commitDue = true ↔ s.saveByte ≠ 0 ∧ s.irqMask = false ∧ s.patience = 0 := by
  unfold State.commitDue
  rw [Bool.and_eq_true, commitEnabled_iff, beq_iff_eq, and_assoc]

/-- With interrupts enabled and nothing listed a step runs the free arrival's operation. -/
theorem step_free (s : State) (hp : s.pending = []) (hm : s.irqMask = false) :
    step s = exec (select s.ctx s.freeArrival.event)
      { s with inputs := s.freeArrival.inputs, out := none, drawn := s.drawn + 1,
               patience := if s.commitDue then Config.commitPatience (s.drawn + 1) else s.patience - 1 } := by
  have hn : s.nextArrival = s.freeArrival := by simp [State.nextArrival, hp]
  obtain ⟨h, -⟩ | ⟨-, h⟩ := step_cases s
  · exact absurd (h.symm.trans hm) (by decide)
  · rw [h, hn]
    simp [State.take, State.drawnAfter, State.patienceAfter, hp]

/-! ### The context -/

/-- The context of a state. -/
theorem State.ctx_eq (s : State) : s.ctx = ⟨s.st, s.cur, s.pos.setWidth 8⟩ := rfl

/-- While the cursor fits eight bits the decode word's position is the cursor. -/
theorem State.ctx_pos_toNat (s : State) (h : s.pos.toNat ≤ 255) : s.ctx.pos.toNat = s.pos.toNat := by
  simp only [State.ctx, BitVec.toNat_setWidth]; omega

/-! ### Several steps -/

/-- The first of several steps, on any machine behind the host's interface. -/
theorem run_succ_of_step (M : Host.Core) (s t : M.State) (h : M.step s = .next t) (n : Nat) :
    M.run (n + 1) s = M.run n t := by
  simp only [Host.Core.run, h]

/-- The first of several steps of the engine. -/
theorem run_succ (s t : State) (h : step s = .next t) (n : Nat) :
    Host.Core.run Sys2Proof.core (n + 1) s = Host.Core.run Sys2Proof.core n t :=
  run_succ_of_step Sys2Proof.core s t h n

end Sys2Proof.Machine
end

