-- ==== Sys2Proof/Tests/Slice0.lean ====
section
/-! SUPPORT. The model's own tests: expected results are taken from spec/95_test_vectors.md (the vector's name stands in the
comment) or written out from spec/30_encoding.md; each runs one step. After them, a witness for every statement that has
hypotheses. -/

namespace Sys2Proof.Tests

open Sys2Proof Sys2Proof.Machine

/-! ### The start state `Z0` of 95_test_vectors.md section 0 and the helpers -/

/-- `T0`'s page 1. -/
def z0Page0 : Page :=
  #v[0x10, 0, 0, 0, 0, 0, 0, 0, 0, 0, 0, 0, 0, 0, 0, 0, 0, 0, 0, 0, 0, 0, 0, 0, 0, 0, 0, 0, 0, 0, 0x2A, 0]

/-- `T0`'s page 2. -/
def z0Page1 : Page :=
  #v[0, 0, 0, 0, 0, 0, 0, 0, 0, 0, 0x18, 0x04, 0x22, 0x05, 0xD4, 0x05, 0, 0, 0, 0, 0, 0, 0, 0, 0, 0, 0, 0, 0, 0, 0, 1]

/-- `SRC` of section 2.4 in page 3, with a save pending. -/
def srcPage2 : Page :=
  #v[0x41, 0xA3, 0xB8, 0x52, 0x3F, 0x80, 0, 0, 0x42, 0x90, 0, 0, 0xBC, 0x4C, 0xCC, 0xCD, 0x78, 0x14, 0x05, 1, 0, 0, 0, 0,
    0, 0, 0, 0, 0, 0, 0, 2]

/-- The state after `RESET` under `T0`. -/
def z0 : State where
  live := #v[z0Page0, z0Page1, resetPage2, resetPage3]
  tx := z0Page0
  cur := 0
  st := .waiting
  pos := 0
  txi := 0
  listen := true
  irqMask := false
  flash := []
  inputs := ⟨0x10, 0, 0⟩
  out := some .enableListen
  pending := []
  drawn := 0
  patience := 3

/-- Some sampled inputs. -/
def x0 : Inputs := ⟨0x10, 0, 0⟩

/-- `OLD` of section 2.4: twenty bytes 0x11. -/
def oldFlash : Memory := (List.range 20).map fun a => (a, 0x11)

/-- One step of `s` with `e` arriving under the inputs `x`. -/
def stepOn (s : State) (e : Event) (x : Inputs) : Result := step { s with pending := [⟨e, x⟩] }

/-- A next state that passes the check. -/
def answers (r : Result) (check : State → Bool) : Bool :=
  match r with
  | .next t => check t
  | .fault _ => false
  | .refused _ => false

/-- The `n` live bytes of page `p` from offset `o`. -/
def liveBytes (s : State) (p : BitVec 2) (o n : Nat) : List Byte :=
  (List.range n).map fun k => if h : o + k < 32 then s.readLive p ⟨o + k, h⟩ else 0

/-- The first `n` bytes of the snapshot. -/
def txBytes (s : State) (n : Nat) : List Byte := s.tx.toList.take n

/-- The 20 bytes of the flash record. -/
def flashBytes (s : State) : List Byte := (List.range 20).map (Memory.lookup s.flash)

/-- `COMMIT e p0 .. p4` with `junk[k] = DEADBEEF`. -/
def draws (e p0 p1 p2 p3 p4 : Bool) : FlashDraws :=
  ⟨e, #v[p0, p1, p2, p3, p4], #v[0xDEADBEEF, 0xDEADBEEF, 0xDEADBEEF, 0xDEADBEEF, 0xDEADBEEF]⟩

/-- `SRC`, `save = 01`, `FLASHB = OLD`. -/
def saving : State := { z0 with live := #v[z0Page0, z0Page1, srcPage2, resetPage3], flash := oldFlash }

/-! ### Well-formedness: an ill-formed pair for each check -/

theorem test_wf_setpos : (Instr.setpos 5).wf ⟨.getData, 0, 0⟩ = false := by decide
theorem test_wf_selpage : (Instr.selpage 1).wf ⟨.getData, 0, 30⟩ = false ∧ (Instr.selpage 1).wf ⟨.getAddr, 0, 31⟩ = false := by
  decide
theorem test_wf_stFreq :
    (Instr.stFreq 0 1).wf ⟨.getData, 1, 26⟩ = false ∧ (Instr.stFreq 0 1).wf ⟨.getData, 0, 27⟩ = false ∧
      (Instr.stFreq 1 1).wf ⟨.sendData, 0, 27⟩ = false := by decide
theorem test_wf_stTcxo :
    (Instr.stTcxoCoef 15 1).wf ⟨.getData, 2, 16⟩ = false ∧ (Instr.stTcxoTemp 1 1).wf ⟨.getData, 2, 16⟩ = false ∧
      (Instr.stTcxoRmse 1).wf ⟨.getData, 0, 18⟩ = false := by decide
theorem test_wf_save : (Instr.save 1).wf ⟨.getData, 0, 19⟩ = false ∧ (Instr.save 1).wf ⟨.getData, 2, 20⟩ = false := by decide
theorem test_wf_ign :
    (Instr.ign 1).wf ⟨.getData, 0, 31⟩ = false ∧ (Instr.ign 1).wf ⟨.getData, 0, 26⟩ = false ∧
      (Instr.ign 1).wf ⟨.getData, 2, 19⟩ = false ∧ (Instr.ign 1).wf ⟨.dropData, 0, 5⟩ = false := by decide
theorem test_wf_rxdrop :
    (Instr.rxdrop 1).wf ⟨.getAddr, 0, 0⟩ = false ∧ (Instr.rxdrop 1).wf ⟨.getData, 0, 0⟩ = false := by decide
theorem test_wf_txbyte : Instr.txbyte.wf ⟨.waiting, 0, 0⟩ = false ∧ Instr.txfill.wf ⟨.sendData, 0, 0⟩ = false := by decide

/-! ### Decoding: words written out from R67 (ev, st, cur, pos), as 95_test_vectors.md part 3 lists them -/

/-- `0000 010 11 00000111`. -/
theorem test_decode_reset : decode [0x07, 0x0B, 0x00] = .ok (.reset, []) := rfl
/-- P2: `0001 000 10 00100000`, 0x02220. -/
theorem test_decode_addrW : decode [0x20, 0x22, 0x00] = .ok (.addrW, []) := rfl
/-- P1: `0010 000 10 00100000`, 0x04220. -/
theorem test_decode_addrR : decode [0x20, 0x42, 0x00] = .ok (.addrR, []) := rfl
/-- P2: `0011 001 10 00100000`, 0x06620; the byte after the record stays. -/
theorem test_decode_setpos : decode [0x20, 0x66, 0x00, 0x00, 0x99] = .ok (.setpos 0x00, [0x99]) := rfl
/-- P2: `0011 010 10 00011111`, 0x06A1F. -/
theorem test_decode_selpage : decode [0x1F, 0x6A, 0x00, 0x02] = .ok (.selpage 0x02, []) := rfl
/-- P3: `0011 010 00 00011010`, 0x0681A. -/
theorem test_decode_stFreq : decode [0x1A, 0x68, 0x00, 0x80] = .ok (.stFreq 0 0x80, []) := rfl
/-- P2: `0011 010 10 00000011`, 0x06A03, and 0x06A0F. -/
theorem test_decode_stTcxoCoef :
    decode [0x03, 0x6A, 0x00, 0x52] = .ok (.stTcxoCoef 3 0x52, []) ∧
      decode [0x0F, 0x6A, 0x00, 0xCD] = .ok (.stTcxoCoef 15 0xCD, []) := ⟨rfl, rfl⟩
/-- P2: `0011 010 10 0001000a`, 0x06A10 and 0x06A11. -/
theorem test_decode_stTcxoTemp :
    decode [0x10, 0x6A, 0x00, 0x78] = .ok (.stTcxoTemp 0 0x78, []) ∧
      decode [0x11, 0x6A, 0x00, 0x14] = .ok (.stTcxoTemp 1 0x14, []) := ⟨rfl, rfl⟩
/-- P2: `0011 010 10 00010010`, 0x06A12. -/
theorem test_decode_stTcxoRmse : decode [0x12, 0x6A, 0x00, 0x07] = .ok (.stTcxoRmse 0x07, []) := rfl
/-- P2: `0011 010 10 00010011`, 0x06A13. -/
theorem test_decode_save : decode [0x13, 0x6A, 0x00, 0x01] = .ok (.save 0x01, []) := rfl
/-- P3: `0011 010 01 00100000`, 0x06920; P5: 0x0681E, the version byte. -/
theorem test_decode_ign :
    decode [0x20, 0x69, 0x00, 0x77] = .ok (.ign 0x77, []) ∧ decode [0x1E, 0x68, 0x00, 0x99] = .ok (.ign 0x99, []) := ⟨rfl, rfl⟩
/-- P3: `0011 100 01 00100001`, 0x07121. -/
theorem test_decode_rxdrop : decode [0x21, 0x71, 0x00, 0x66] = .ok (.rxdrop 0x66, []) := rfl
/-- P1: `0100 011 10 00100000`, 0x08E20. -/
theorem test_decode_txbyte : decode [0x20, 0x8E, 0x00] = .ok (.txbyte, []) := rfl
/-- P6: `0100 100 10 00000010`, 0x09202. -/
theorem test_decode_txfill : decode [0x02, 0x92, 0x00] = .ok (.txfill, []) := rfl
/-- P1: `0101 010 10 00100000`, 0x0AA20. -/
theorem test_decode_stop : decode [0x20, 0xAA, 0x00] = .ok (.stop, []) := rfl
/-- P1: `0110 011 10 00100000`, 0x0CE20. -/
theorem test_decode_errAf : decode [0x20, 0xCE, 0x00] = .ok (.errAf, []) := rfl
/-- P6: `0111 010 10 00000010`, 0x0EA02. -/
theorem test_decode_errBus : decode [0x02, 0xEA, 0x00] = .ok (.errBus, []) := rfl
/-- P6: `1000 011 10 00000010`, 0x10E02. -/
theorem test_decode_abort : decode [0x02, 0x0E, 0x01] = .ok (.abort, []) := rfl
/-- `1001 000 00 00100000`, 0x12020, `1010` and `1011` beside it (P4, R60). -/
theorem test_decode_captures :
    decode [0x20, 0x20, 0x01, 0x05, 0x00] = .ok (.capture1 0x0005, []) ∧
      decode [0x20, 0x40, 0x01, 0x11, 0x22] = .ok (.capture2 0x2211, []) ∧
      decode [0x20, 0x60, 0x01, 0xCD, 0xAB] = .ok (.capture3 0xABCD, []) := ⟨rfl, rfl, rfl⟩
/-- `1100 000 00 00000000` (R60), K7's codes. -/
theorem test_decode_adc :
    decode [0x00, 0x80, 0x01, 0xA0, 0x06, 0xF0, 0x05, 0x00, 0x08] = .ok (.adc 0x06A0 0x05F0 0x0800, []) := rfl
/-- P2: `1101 000 10 00010100`, 0x1A214, F5's draws: `erase_ok = 1`, `prog_ok = 1 1 0 - -`. -/
theorem test_decode_flashCommit :
    decode [0x14, 0xA2, 0x01, 0x07, 0, 0, 0, 0, 0, 0, 0, 0, 0xEF, 0xBE, 0xAD, 0xDE, 0, 0, 0, 0, 0, 0, 0, 0] =
      .ok (.flashCommit ⟨true, #v[true, true, false, false, false], #v[0, 0, 0xDEADBEEF, 0, 0]⟩, []) := rfl
/-- R60: codes 14 and 15; R67: state codes 5 and 7; bit 17; six draw flags; short records. -/
theorem test_decode_refused :
    decode [0x00, 0xC0, 0x01] = .error (.noSuchEvent 14) ∧ decode [0x00, 0xE0, 0x01] = .error (.noSuchEvent 15) ∧
      decode [0x00, 0x14, 0x00] = .error (.noSuchState 5) ∧ decode [0x00, 0x1C, 0x00] = .error (.noSuchState 7) ∧
      decode [0x00, 0x00, 0x02] = .error .strayBits ∧ decode [0x00, 0xA0, 0x01, 0x40] = .error .strayBits ∧
      decode [0x00, 0x64, 0x00] = .error .truncated ∧ decode [] = .error .truncated :=
  ⟨rfl, rfl, rfl, rfl, rfl, rfl, rfl, rfl⟩
/-- The rows' `match` words of spec/opcode_table.json, in order. -/
theorem test_table_low :
    ([0x00000, 0x02000, 0x04000, 0x06400, 0x0681F, 0x0681A, 0x06A00, 0x06A10, 0x06A12, 0x06A13, 0x06800, 0x06000].map
      fun w => (decodeTableWord 24 w).map Instr.row) = (List.range 12).map fun k => some (k + 1) := by decide
/-- The rest of them. -/
theorem test_table_high :
    ([0x08C00, 0x08000, 0x0A000, 0x0C000, 0x0E000, 0x10000, 0x12000, 0x14000, 0x16000, 0x18000, 0x1A000].map
      fun w => (decodeTableWord 24 w).map Instr.row) = (List.range 11).map fun k => some (k + 13) := by decide
/-- `withFetchWord`: the next step after reset runs the row's word (rows 2, 5 and 23; log 12). -/
theorem test_fetch_word :
    answers (step (State.reset.withFetchWord 24 0x02000)) (fun t => t.st == .getAddr && t.pending == []) = true ∧
      answers (step (State.reset.withFetchWord 24 0x06B1F)) (fun t => t.cur == 0 && t.pos == 32) = true ∧
      answers (step (State.reset.withFetchWord 24 0x1A000)) (fun t => t.saveByte == 0 && t.saveStatus == 2) = true := by
  decide

/-! ### One step of each operation -/

/-- Z2: the pending commit is lost, page 3 is loaded from the record, the record stays. -/
theorem test_reset :
    answers (stepOn { saving with cur := 3, st := .getData, pos := 7 } .reset x0) (fun t =>
      t.cur == 0 && t.st == .waiting && t.pos == 0 && t.flash == oldFlash && t.saveByte == 0 &&
        liveBytes t 2 17 4 == [0x11, 0x11, 0, 0] && txBytes t 5 == [0x10, 0, 0, 0, 0]) = true := by decide
/-- B3. -/
theorem test_addrW :
    answers (stepOn { z0 with st := .getData, pos := 7 } .addrW x0) (fun t =>
      t.st == .getAddr && t.pos == 7 && t.out == some .requestRx) = true := by decide
/-- B4. -/
theorem test_addrR :
    answers (stepOn { z0 with st := .sendData, txi := 12 } .addrR x0) (fun t =>
      t.st == .sendData && t.txi == 0 && t.out == some .startTx) = true := by decide
/-- B8: the offset byte is not range-checked. -/
theorem test_setpos :
    answers (stepOn { z0 with st := .getAddr } (.rxbyte 0xFF) x0) (fun t =>
      t.pos == 255 && t.st == .getData && t.out == some .requestRx) = true := by decide
/-- W15: selecting page 4 refreshes it and takes the snapshot. -/
theorem test_selpage_page4 :
    answers (stepOn { z0 with st := .getData, pos := 31 } (.rxbyte 3) ⟨0, 0x1234, 0x00AB⟩) (fun t =>
      t.cur == 3 && liveBytes t 3 0 5 == [0x34, 0x12, 0xAB, 0, 0] && txBytes t 5 == [0x34, 0x12, 0xAB, 0, 0] &&
        t.tx[31] == 3 && t.pos == 32 && t.st == .getData) = true := by decide
/-- W17: a selector above 3 selects page 1; also `FF` and 4 by S1's rule. -/
theorem test_selpage_above_three :
    answers (stepOn { z0 with cur := 2, st := .getData, pos := 31 } (.rxbyte 9) ⟨0x200, 0, 0⟩) (fun t =>
      t.cur == 0 && liveBytes t 0 0 4 == [0, 2, 0, 0] && t.tx[31] == 0) = true ∧
      (selEff 3 = 3 ∧ selEff 4 = 0 ∧ selEff 5 = 0 ∧ selEff 0xFF = 0) := by decide
/-- W1's first byte: the live image only. -/
theorem test_stFreq :
    answers (stepOn { z0 with st := .getData, pos := 26 } (.rxbyte 0x80) x0) (fun t =>
      liveBytes t 0 26 2 == [0x80, 0] && t.tx[26] == 0 && t.pos == 27) = true := by decide
/-- W3: not on page 2. -/
theorem test_stFreq_other_page :
    answers (stepOn { z0 with cur := 1, st := .getData, pos := 26 } (.rxbyte 0x80) x0) (fun t =>
      t.live == z0.live && t.pos == 27) = true := by decide
/-- W6's last byte. -/
theorem test_stTcxoCoef :
    answers (stepOn { z0 with cur := 2, st := .getData, pos := 3 } (.rxbyte 0x52) x0) (fun t =>
      liveBytes t 2 2 3 == [0xFF, 0x52, 0xFF] && t.pos == 4 && t.out == some .requestRx) = true := by decide
/-- P2's `min_temp`. -/
theorem test_stTcxoTemp :
    answers (stepOn { z0 with cur := 2, st := .getData, pos := 17 } (.rxbyte 0x14) x0) (fun t =>
      liveBytes t 2 16 3 == [0xFF, 0x14, 0xFF]) = true := by decide
/-- W7. -/
theorem test_stTcxoRmse :
    answers (stepOn { z0 with cur := 2, st := .getData, pos := 18 } (.rxbyte 0x07) x0) (fun t =>
      liveBytes t 2 17 3 == [0xFF, 0x07, 0] && t.pos == 19) = true := by decide
/-- W9. -/
theorem test_save :
    answers (stepOn { z0 with cur := 2, st := .getData, pos := 19 } (.rxbyte 1) x0) (fun t =>
      t.saveByte == 1 && t.saveStatus == 0 && t.commitEnabled && t.flash == []) = true := by decide
/-- W10: a zero does not cancel. -/
theorem test_save_zero :
    answers (stepOn { saving with cur := 2, st := .getData, pos := 19 } (.rxbyte 0) x0) (fun t => t.saveByte == 1) = true := by
  decide
/-- B9 and B12: the cursor passes the whole-record size. -/
theorem test_ign_drops :
    answers (stepOn { z0 with st := .getData, pos := 255 } (.rxbyte 9) x0) (fun t =>
      t.pos == 256 && t.st == .dropData && t.out == none) = true ∧
      answers (stepOn { z0 with st := .getData, pos := 32 } (.rxbyte 9) x0) (fun t =>
        t.pos == 33 && t.st == .dropData && t.out == none) = true := by decide
/-- B10 and W12: read-only bytes. -/
theorem test_ign_reads_only :
    answers (stepOn { z0 with st := .getData, pos := 30 } (.rxbyte 9) x0) (fun t =>
      t.live == z0.live && t.pos == 31 && t.st == .getData && t.out == some .requestRx) = true ∧
      answers (stepOn { z0 with cur := 2, st := .getData, pos := 20 } (.rxbyte 9) x0) (fun t => t.saveStatus == 0) = true := by
  decide
/-- B21. -/
theorem test_rxdrop :
    answers (stepOn { z0 with st := .dropData, pos := 33 } (.rxbyte 0x55) x0) (fun t =>
      t.st == .dropData && t.pos == 33 && t.live == z0.live && t.out == none) = true := by decide
/-- B15 and B16. -/
theorem test_txbyte :
    answers (stepOn { z0 with st := .sendData, txi := 30 } .txbyte x0) (fun t =>
      t.out == some (.byte 0x2A) && t.txi == 31) = true ∧
      answers (stepOn { z0 with st := .sendData, txi := 31 } .txbyte x0) (fun t =>
        t.out == some (.byte 0x00) && t.txi == 32) = true := by decide
/-- B17. -/
theorem test_txbyte_fill :
    answers (stepOn { z0 with st := .sendData, txi := 32 } .txbyte x0) (fun t =>
      t.out == some (.byte 0x00) && t.txi == 32) = true := by decide
/-- B23 and E4's last step. -/
theorem test_txfill :
    answers (stepOn { z0 with st := .dropData, txi := 9 } .txbyte x0) (fun t =>
      t.out == some (.byte 0x00) && t.txi == 9 && t.st == .dropData) = true := by decide
/-- B20 and B24. -/
theorem test_stop :
    answers (stepOn { z0 with st := .getAddr, pos := 5 } .stop x0) (fun t =>
      t.st == .waiting && t.pos == 5 && t.out == some .enableListen) = true := by decide
/-- E1: nothing is emitted. -/
theorem test_errAf :
    answers (stepOn { z0 with st := .sendData, txi := 32 } .errAf x0) (fun t =>
      t.st == .dropData && t.txi == 32 && t.out == none) = true := by decide
/-- E7: a pending commit survives the error. -/
theorem test_errBus :
    answers (stepOn { saving with cur := 2, st := .getData } .errBus x0) (fun t =>
      t.st == .dropData && t.saveByte == 1 && t.out == some .enableListen && t.listen) = true := by decide
/-- E4. -/
theorem test_abort :
    answers (stepOn { z0 with st := .sendData, txi := 9 } .abort x0) (fun t =>
      t.st == .dropData && t.txi == 9 && t.out == some .enableListen) = true := by decide
/-- K1. -/
theorem test_capture1 :
    answers (stepOn z0 (.capture1 0xFDE8) ⟨0x0001E240, 0xFE10, 0x02DC⟩) (fun t =>
      liveBytes t 0 3 12 == [0, 0x40, 0xE2, 0x01, 0x00, 0x10, 0xFE, 0xDC, 0x02, 0xE8, 0xFD, 0] && t.tx == z0.tx) = true := by
  decide
/-- K2: the counter wraps. -/
theorem test_capture2 :
    answers (stepOn (z0.writeLive 0 28 0xFF) (.capture2 0x0005) ⟨0, 0x0040, 0x0001⟩) (fun t =>
      liveBytes t 0 13 8 == [0, 0x40, 0, 0x01, 0, 0x05, 0, 0] && liveBytes t 0 28 2 == [0, 0]) = true := by decide
/-- K5: whatever page is current and in any protocol state. -/
theorem test_capture2_mid_write :
    answers (stepOn { z0 with cur := 2, st := .getData } (.capture2 0x1111) ⟨0, 0x1120, 0⟩) (fun t =>
      liveBytes t 0 14 6 == [0x20, 0x11, 0, 0, 0x11, 0x11] && t.cur == 2 && t.st == .getData && t.tx == z0.tx) = true := by
  decide
/-- K3. -/
theorem test_capture3 :
    answers (stepOn (z0.writeLive 0 29 7) (.capture3 0xABCD) ⟨0, 0xABD0, 0x1000⟩) (fun t =>
      liveBytes t 0 19 11 == [0, 0xD0, 0xAB, 0x00, 0x10, 0xCD, 0xAB, 0, 0, 0, 8]) = true := by decide
/-- K7: the calibration constants stay. -/
theorem test_adc :
    answers (stepOn z0 (.adc 0x06A0 0x05F0 0x0800) ⟨0x100, 0, 0⟩) (fun t =>
      liveBytes t 1 0 12 == [0x00, 0x01, 0, 0, 0xA0, 0x06, 0xF0, 0x05, 0x00, 0x08, 0x18, 0x04]) = true := by decide
/-- F5: the third unit fails. -/
theorem test_flashCommit_write_failure :
    answers (stepOn saving (.flashCommit (draws true true true false true true)) x0) (fun t =>
      flashBytes t == [0x41, 0xA3, 0xB8, 0x52, 0x3F, 0x80, 0, 0, 0xDE, 0xAD, 0xBE, 0xEF, 0xFF, 0xFF, 0xFF, 0xFF, 0xFF, 0xFF,
        0xFF, 0xFF] && t.saveByte == 0 && t.saveStatus == 3) = true := by decide
/-- F2 and F3: full success with the pad byte, and an erase failure. -/
theorem test_flashCommit_ends :
    answers (stepOn saving (.flashCommit (draws true true true true true true)) x0) (fun t =>
      flashBytes t == [0x41, 0xA3, 0xB8, 0x52, 0x3F, 0x80, 0, 0, 0x42, 0x90, 0, 0, 0xBC, 0x4C, 0xCC, 0xCD, 0x78, 0x14, 0x05,
        0x00] && t.saveByte == 0 && t.saveStatus == 1) = true ∧
      answers (stepOn saving (.flashCommit (draws false true true true true true)) x0) (fun t =>
        t.flash == oldFlash && t.saveByte == 0 && t.saveStatus == 2) = true := by decide

/-- R137: with nothing listed and no patience left the step takes the pending commit, which clears the trigger; without a
save pending it takes the free arrival. -/
theorem test_due_commit :
    ({ saving with patience := 0 } : State).nextArrival.event = .flashCommit (Config.commitDraws 0) ∧
      answers (step { saving with patience := 0 }) (fun t => t.saveByte == 0) = true ∧
      ({ z0 with patience := 0 } : State).nextArrival = Config.arrival 0 ∧
      ({ saving with patience := 1 } : State).nextArrival = Config.arrival 0 := ⟨rfl, by decide, rfl, rfl⟩

/-! ### Witnesses: the hypotheses of each statement met together, at the values where its clauses meet -/

/-- `Z0` with the model's own version byte, the given page 3 and the given schedule: a running state. -/
def running (pg : Page) (p : List Arrival) : State :=
  { z0 with live := #v[resetPage0, z0Page1, pg, resetPage3], tx := resetPage0, pending := p }

/-- `GET_DATA` at a position of a page, one byte arriving. -/
def writing (cur : BitVec 2) (pos : BitVec 9) (b : Byte) : State :=
  { z0 with cur := cur, st := .getData, pos := pos, pending := [⟨.rxbyte b, x0⟩] }

/-- Interrupts masked, a capture waiting. -/
def masked : State := { z0 with irqMask := true, pending := [⟨.capture1 5, x0⟩] }

theorem no_reserved_page1 : ∀ i : Fin 32, reservedAt 0 i = false := by decide
theorem z0Page1_reserved : ∀ i : Fin 32, reservedAt 1 i = true → z0Page1[i] = 0 := by decide
theorem resetPage3_reserved : ∀ i : Fin 32, reservedAt 3 i = true → resetPage3[i] = 0 := by decide

/-- The running state meets the invariant when its page 3 is one that the engine can hold. -/
theorem running_inv (pg : Page) (p : List Arrival) (hsel : pg[31] = 2)
    (hres : ∀ i : Fin 32, reservedAt 2 i = true → pg[i] = 0) (hst : pg[20].toNat ≤ 3) : (running pg p).Inv where
  txSelector := rfl
  liveSelector := by
    have hc : ∀ q : BitVec 2, q = 0 ∨ q = 1 ∨ q = 2 ∨ q = 3 := by decide
    intro q
    rcases hc q with rfl | rfl | rfl | rfl
    · rfl
    · rfl
    · exact hsel
    · rfl
  unmasked := rfl
  armed := rfl
  txiRange := Nat.zero_le _
  posRange := Nat.zero_le _
  posInData := fun h => nomatch h
  liveReserved := by
    have hc : ∀ q : BitVec 2, q = 0 ∨ q = 1 ∨ q = 2 ∨ q = 3 := by decide
    intro q i hi
    rcases hc q with rfl | rfl | rfl | rfl
    · exact nomatch (no_reserved_page1 i).symm.trans hi
    · exact z0Page1_reserved i hi
    · exact hres i hi
    · exact resetPage3_reserved i hi
  txReserved := by
    intro i hi
    exact nomatch (no_reserved_page1 i).symm.trans hi
  version := rfl
  statusRange := hst
  flashWf := rfl

/-- With the page 3 that reset leaves. -/
theorem idle_inv (p : List Arrival) : (running resetPage2 p).Inv := running_inv _ _ rfl (by decide) (by decide)

/-- With a save pending. -/
theorem saving_inv (p : List Arrival) : (running srcPage2 p).Inv := running_inv _ _ rfl (by decide) (by decide)

theorem witness_AddrWriteRequestsOffset : z0.listen = true := rfl
theorem witness_AddrReadStartsTransmission : ({ z0 with st := .sendData, txi := 12 } : State).listen = true := rfl
theorem witness_AddressMatchNeedsListening : ({ z0 with listen := false } : State).listen = false := rfl
theorem witness_OffsetByteSetsCursor : ({ z0 with st := .getAddr } : State).st = .getAddr := rfl
/-- Positions 31 (stays), 32 and 255 (drops). -/
theorem witness_DataByteTailAdvancesThenDrops : ∀ n ∈ [31#9, 32#9, 255#9],
    (writing 0 n 1).pending = ⟨.rxbyte 1, x0⟩ :: [] ∧ (writing 0 n 1).irqMask = false ∧ (writing 0 n 1).st = .getData ∧
      (writing 0 n 1).pos.toNat ≤ 255 := by decide
theorem witness_TransmitSendsSnapshotThenZeros : ∀ n ∈ [31#6, 32#6], ({ z0 with st := .sendData, txi := n } : State).st = .sendData := by
  decide
theorem witness_FillerByteElsewhere : z0.st ≠ .sendData := by decide
theorem witness_ReceivedByteIsDropped : ∀ p ∈ [Phase.waiting, .sendData, .dropData],
    let s : State := { z0 with st := p }
    s.st = .waiting ∨ s.st = .sendData ∨ s.st = .dropData := by decide
/-- The two outcomes of a data byte, at 31 and 32. -/
theorem witness_NextStateTable : ∀ n ∈ [31#9, 32#9],
    (writing 0 n 1).pending = ⟨.rxbyte 1, x0⟩ :: [] ∧ (writing 0 n 1).irqMask = false ∧ (writing 0 n 1).listen = true ∧
      (writing 0 n 1).pos.toNat ≤ 256 ∧
      (writing 0 n 1).nextPhase (.rxbyte 1) = if n = 31 then .getData else .dropData := by decide
/-- Both sides of the selector's bound, at position 31. -/
theorem witness_EffectiveSelectorIsRecorded :
    (∀ p, (writing 0 31 3).readLive p 31 = p.setWidth 8) ∧ (writing 0 31 3).st = .getData ∧
      (writing 0 31 3).pos.toNat = 31 ∧ (3 : Byte).toNat ≤ 3 ∧ ¬ (4 : Byte).toNat ≤ 3 := by decide
theorem witness_SelectPageRefreshesPage : (writing 0 31 1).st = .getData ∧ (writing 0 31 1).pos.toNat = 31 := by decide
theorem witness_SnapshotIsTheLivePage :
    masked.pending = ⟨.capture1 5, x0⟩ :: [] ∧ masked.irqMask = true ∧ (Event.capture1 5) ≠ .reset := by decide
theorem witness_SelectorsAboveThreeActAsZero : 3 < (4 : Byte).toNat := by decide
/-- One selection of each kind of page. -/
theorem witness_ReselectingRepeatsTheSnapshot :
    (∃ t, exec (.selpage 1) z0 = .next t ∧ t.cur = 1) ∧ (∃ t, exec (.selpage 2) z0 = .next t ∧ t.cur = 2) ∧
      ∃ t, exec (.selpage 3) z0 = .next t ∧ t.cur = 3 ∧ x0 = z0.inputs :=
  ⟨⟨_, rfl, by decide⟩, ⟨_, rfl, by decide⟩, ⟨_, rfl, by decide, rfl⟩⟩
theorem witness_FrequencyByteIsStored : ∀ a : BitVec 1,
    let s := writing 0 (26 + a.setWidth 9) 5
    s.st = .getData ∧ s.cur = 0 ∧ s.pos.toNat = 26 + a.toNat := by decide
/-- The first and the last position of each row. -/
theorem witness_CalibrationByteIsStored : ∀ n ∈ [0#9, 15#9, 16#9, 17#9, 18#9],
    (writing 2 n 5).st = .getData ∧ (writing 2 n 5).cur = 2 ∧ (writing 2 n 5).pos.toNat = n.toNat := by decide
theorem witness_TriggerByteArmsCommit :
    (writing 2 19 5).st = .getData ∧ (writing 2 19 5).cur = 2 ∧ (writing 2 19 5).pos.toNat = 19 ∧ (5 : Byte) ≠ 0 := by decide
/-- The hypotheses of an ignored byte, and the condition of R108. -/
def Ignored (s : State) : Prop :=
  s.st = .getData ∧ s.pos.toNat ≤ 255 ∧ ¬ s.pos.toNat = 31 ∧ ¬ (s.cur = 0 ∧ (s.pos.toNat = 26 ∨ s.pos.toNat = 27)) ∧
    ¬ (s.cur = 2 ∧ s.pos.toNat ≤ 19)

/-- Ignored just beside each stored range. -/
theorem witness_IgnoredByteOnlyMovesCursor :
    Ignored (writing 0 25 5) ∧ Ignored (writing 0 28 5) ∧ Ignored (writing 2 20 5) ∧ Ignored (writing 0 32 5) :=
  ⟨by unfold Ignored; decide, by unfold Ignored; decide, by unfold Ignored; decide, by unfold Ignored; decide⟩
/-- The positions at which the clauses meet, and a state to which the cursor's bound does not apply. -/
theorem witness_HostStoresOnlyItsFields : ∀ n ∈ [19#9, 26#9, 31#9],
    (writing 2 n 1).pending = ⟨.rxbyte 1, x0⟩ :: [] ∧ (writing 2 n 1).irqMask = false ∧ fromBus (.rxbyte 1) = true ∧
      (writing 2 n 1).pos.toNat ≤ 255 := by decide
theorem witness_HostStoresOnlyItsFields_elsewhere : ({ z0 with pos := 256 } : State).st ≠ .getData := by decide
theorem witness_DeviceEventsIgnoreTheProtocol :
    (∃ v, Instr.capture2 5 = .capture1 v ∨ Instr.capture2 5 = .capture2 v ∨ Instr.capture2 5 = .capture3 v) ∧
      (∃ c v x, Instr.adc 1 2 3 = .adc c v x) ∧ ∃ d, Instr.flashCommit (draws true true true true true true) = .flashCommit d :=
  ⟨⟨5, .inr (.inl rfl)⟩, ⟨1, 2, 3, rfl⟩, ⟨_, rfl⟩⟩
theorem witness_DisabledCommitDoesNothing : z0.saveByte = 0 ∧ masked.irqMask = true := by decide
theorem witness_CommitEraseFailureKeepsRecord :
    saving.saveByte ≠ 0 ∧ saving.irqMask = false ∧ (draws false true true true true true).eraseOk = false := by decide
/-- A commit whose third unit fails: a unit before it, the unit itself and one after it. -/
theorem witness_CommitWritesRecordUnitByUnit :
    let d := draws true true true false true true
    saving.saveByte ≠ 0 ∧ saving.irqMask = false ∧ d.eraseOk = true ∧
      (∀ j : Fin 5, j.val ≤ 1 → d.progOk[j] = true) ∧ (∀ j : Fin 5, j.val < 2 → d.progOk[j] = true) ∧
      ¬ (∀ j : Fin 5, j.val ≤ 2 → d.progOk[j] = true) ∧ ¬ (∀ j : Fin 5, j.val < 3 → d.progOk[j] = true) := by decide
theorem witness_FlashWrittenOnlyByCommit :
    ∃ t, exec (.flashCommit (draws true true true true true true)) saving = .next t ∧ t.flash ≠ saving.flash :=
  ⟨_, rfl, by decide⟩
theorem witness_SaveStatusWrittenOnlyByCommit :
    (∃ t, exec (.flashCommit (draws true true true true true true)) saving = .next t ∧ t.saveStatus ≠ saving.saveStatus) ∧
      ∃ t, exec .reset (z0.writeLive 2 20 3) = .next t ∧ t.saveStatus ≠ (z0.writeLive 2 20 3).saveStatus :=
  ⟨⟨_, rfl, by decide⟩, ⟨_, rfl, by decide⟩⟩
theorem witness_TriggerSetByHostClearedByCommit :
    (∃ t, exec (.save 1) z0 = .next t ∧ t.saveByte ≠ z0.saveByte) ∧
      (∃ t, exec (.flashCommit (draws true true true true true true)) saving = .next t ∧ t.saveByte ≠ saving.saveByte) ∧
      ∃ t, exec .reset saving = .next t ∧ t.saveByte ≠ saving.saveByte :=
  ⟨⟨_, rfl, by decide⟩, ⟨_, rfl, by decide⟩, ⟨_, rfl, by decide⟩⟩
/-- Power lost after the erase and two programs. -/
theorem witness_PowerLossDuringCommitIsSilent :
    let d : FlashDraws := ⟨true, #v[true, true, false, true, true], #v[0, 0, 0xFFFFFFFF, 0, 0]⟩
    saving.saveByte ≠ 0 ∧ saving.irqMask = false ∧ d.eraseOk = true ∧
      (∀ j : Fin 5, j.val < (2 : Fin 5).val → d.progOk[j] = true) ∧ d.progOk[(2 : Fin 5)] = false ∧
      d.junk[(2 : Fin 5)] = 0xFFFFFFFF := by decide
theorem witness_MaskedArrivalWaits :
    masked.pending = ⟨.capture1 5, x0⟩ :: [] ∧ masked.irqMask = true ∧ (Event.capture1 5) ≠ .reset := by decide
theorem witness_ResetStateIsTheSequenceResult : State.reset.flash = [] ∧ State.reset.inputs = Config.resetInputs :=
  ⟨rfl, rfl⟩
theorem witness_InvariantKeptByStep :
    (running resetPage2 [⟨.addrW, x0⟩]).Inv ∧ ∃ t, step (running resetPage2 [⟨.addrW, x0⟩]) = .next t :=
  ⟨idle_inv _, _, rfl⟩
theorem witness_TransmitBufferWrittenAndReadOnlyThere :
    (∃ t, exec (.selpage 1) z0 = .next t ∧ t.tx ≠ z0.tx) ∧ Instr.reset ≠ .txbyte ∧
      (∃ b, Instr.selpage 1 = .selpage b) :=
  ⟨⟨_, rfl, by decide⟩, by decide, ⟨1, rfl⟩⟩
theorem witness_CurrentPageWrittenOnlyBySelection : ∃ t, exec (.selpage 1) z0 = .next t ∧ t.cur ≠ z0.cur :=
  ⟨_, rfl, by decide⟩
theorem witness_CursorDoesNotMoveReads : ∀ i ∈ [Instr.addrR, .txbyte, .txfill], i = .addrR ∨ i = .txbyte ∨ i = .txfill := by
  decide
/-- `n` samples of the inputs, no two alike. -/
def samples (n : Nat) : List Inputs := (List.range n).map fun k => ⟨BitVec.ofNat 32 k, 0, 0⟩

/-- The last byte of the snapshot and the first filler byte, each byte under other inputs. -/
theorem witness_ReadTransactionReturnsSnapshot : ∀ n ∈ [31, 32],
    let p : List Arrival := ⟨.addrR, x0⟩ :: ((samples (n + 1)).map (fun y => (⟨.txbyte, y⟩ : Arrival)) ++ [])
    (samples (n + 1)).length = n + 1 ∧ (running resetPage2 p).pending = p ∧ (running resetPage2 p).irqMask = false ∧
      (running resetPage2 p).listen = true :=
  fun n _ => ⟨by simp [samples], rfl, rfl, rfl⟩
/-- Two bytes under different inputs that end just below the trigger. -/
theorem witness_CalibrationWriteLandsInOrder :
    let ds : List (Byte × Inputs) := [(5, x0), (6, ⟨7, 8, 9⟩)]
    let s : State := { writing 2 17 5 with pending := ds.map (fun d => (⟨.rxbyte d.1, d.2⟩ : Arrival)) ++ [] }
    s.irqMask = false ∧ s.st = .getData ∧ s.cur = 2 ∧ s.pos.toNat + ds.length ≤ 19 := by decide
/-- On both sides of the selector's bound, each event under other inputs. -/
theorem witness_SelectThenReadReturnsSelector : ∀ v ∈ [3#8, 4#8],
    let p := [⟨.addrW, x0⟩, ⟨.rxbyte 31, ⟨1, 0, 0⟩⟩, ⟨.rxbyte v, ⟨2, 0, 0⟩⟩, ⟨.stop, ⟨3, 0, 0⟩⟩, ⟨.addrR, ⟨4, 0, 0⟩⟩] ++
      ((samples 32).map (fun y => (⟨.txbyte, y⟩ : Arrival)) ++ [])
    (running resetPage2 p).Inv ∧ (samples 32).length = 32 ∧ (running resetPage2 p).pending = p :=
  fun _ _ => ⟨idle_inv _, by simp [samples], rfl⟩
theorem witness_DecodeEncodeRoundTrip :
    (Instr.stTcxoCoef 15 5).wf ⟨.getData, 2, 15⟩ = true ∧ (Instr.stTcxoTemp 1 5).wf ⟨.getData, 2, 17⟩ = true ∧
      (Instr.stFreq 1 5).wf ⟨.getData, 0, 27⟩ = true ∧ (Instr.save 5).wf ⟨.getData, 2, 19⟩ = true ∧
      (Instr.ign 5).wf ⟨.getData, 2, 20⟩ = true := by decide
theorem witness_DecodedBytesAreARecord : decode [0x20, 0xAA, 0x00, 0x99] = .ok (.stop, [0x99]) := rfl
/-- Every link of the chain, at the positions where the links meet. -/
theorem witness_DataByteDispatchChain :
    ([(0, 31), (0, 32), (0, 26), (0, 27), (0, 25), (0, 28), (1, 26), (2, 0), (2, 15), (2, 16), (2, 17), (2, 18), (2, 19),
      (2, 20), (2, 31), (2, 255)].map fun c => (select ⟨.getData, c.1, c.2⟩ (.rxbyte 5)).row) =
      [5, 11, 6, 6, 11, 11, 11, 7, 7, 8, 8, 9, 10, 11, 5, 11] := by decide
theorem witness_ReservedCodesAreRefused :
    5 ≤ ((0x01400 : BitVec 17).extractLsb' 10 3).toNat ∧
      ((0x1C000 : BitVec 17).extractLsb' 10 3).toNat ≤ 4 ∧ 14 ≤ ((0x1C000 : BitVec 17).extractLsb' 13 4).toNat := by decide
/-- An arrival under each of the two grounds for not waiting. -/
theorem witness_StepRunsTheDecodedOperation :
    (let s : State := { z0 with pending := [⟨.stop, x0⟩] }
     s.pending = ⟨.stop, x0⟩ :: [] ∧ s.irqMask = false ∧ decode (encodeEvent s.ctx .stop) = .ok (.stop, [])) ∧
      (let s : State := { masked with pending := [⟨.reset, x0⟩] }
       s.pending = ⟨.reset, x0⟩ :: [] ∧ decode (encodeEvent s.ctx .reset) = .ok (.reset, [])) :=
  ⟨⟨rfl, rfl, rfl⟩, ⟨rfl, rfl⟩⟩
/-- No save pending, a save pending with patience left, and one with none. -/
theorem witness_StepTakesTheFreeArrival :
    (z0.pending = [] ∧ z0.irqMask = false ∧ z0.saveByte = 0) ∧
      (saving.pending = [] ∧ saving.irqMask = false ∧ saving.patience ≠ 0) ∧
      ({ saving with patience := 0 } : State).pending = [] ∧ ({ saving with patience := 0 } : State).irqMask = false ∧
      ({ saving with patience := 0 } : State).saveByte ≠ 0 ∧ ({ saving with patience := 0 } : State).patience = 0 := by
  decide
theorem witness_PendingSaveEventuallyCommits :
    (running srcPage2 [⟨.addrW, x0⟩]).Inv ∧ (running srcPage2 [⟨.addrW, x0⟩]).saveByte ≠ 0 :=
  ⟨saving_inv _, by unfold State.saveByte; show srcPage2[19] ≠ 0; decide⟩

end Sys2Proof.Tests
end

section
/-! SUPPORT. Page selection (spec/10_state.md R16, R17; spec/41_register_writes.md R102, R103): which operations write the
transmit buffer and the current page, what the two that do leave there, and which operations read the buffer. -/

namespace Sys2Proof.Machine

/-! ### Who writes `TX` and `cur` -/

/-- Every operation but `RESET` and `SELPAGE` leaves the transmit buffer and the current page alone. -/
theorem exec_keeps_tx_cur (i : Instr) (s t : State) (hi : ¬ (i = .reset ∨ ∃ b, i = .selpage b))
    (h : exec i s = .next t) : t.tx = s.tx ∧ t.cur = s.cur := by
  cases i
  case reset => exact absurd (.inl rfl) hi
  case selpage b => exact absurd (.inr ⟨b, rfl⟩) hi
  case addrW =>
    obtain ⟨-, e⟩ | ⟨-, e⟩ := execAddrW_cases s <;> (injection e.symm.trans h with h; subst h; exact ⟨rfl, rfl⟩)
  case addrR =>
    obtain ⟨-, e⟩ | ⟨-, e⟩ := execAddrR_cases s <;> (injection e.symm.trans h with h; subst h; exact ⟨rfl, rfl⟩)
  case flashCommit d =>
    obtain ⟨-, -, e⟩ | ⟨-, e⟩ := execFlashCommit_cases d s <;>
      (injection e.symm.trans h with h; subst h; exact ⟨rfl, rfl⟩)
  case rxdrop => injection h with h; subst h; exact ⟨rfl, rfl⟩
  all_goals (injection h with h; subst h; simp [State.takeError_eq])

/-- Settles O44: by `exec_keeps_tx_cur`. -/
theorem currentPageWrittenOnlyBySelection : Obligations.CurrentPageWrittenOnlyBySelection := by
  intro i s t h hcur
  by_contra hi
  exact hcur (exec_keeps_tx_cur i s t hi h).2

/-! ### What the writers leave there -/

/-- A page selection or reset leaves in the transmit buffer the page that is then current (R103). -/
theorem exec_selection_tx (i : Instr) (s : State) (hi : i = .reset ∨ ∃ b, i = .selpage b) :
    ∃ t, exec i s = .next t ∧ t.tx = t.page t.cur := by
  obtain rfl | ⟨b, rfl⟩ := hi
  · exact ⟨_, rfl, by simp⟩
  · exact ⟨_, rfl, by simp⟩

/-! ### Who reads `TX` -/

/-- A page selection or reset answers the same state whatever the transmit buffer held: it overwrites all of it. -/
theorem exec_selection_withTx (i : Instr) (s : State) (x : Page) (hi : i = .reset ∨ ∃ b, i = .selpage b) :
    exec i (s.withTx x) = exec i s := by
  obtain rfl | ⟨b, rfl⟩ := hi
  · rfl
  · have href : ({ s.withTx x with cur := selEff b }.refresh (selEff b)) =
        ({ s with cur := selEff b }.refresh (selEff b)).withTx x := State.refresh_withTx { s with cur := selEff b } x _
    show execSelpage b (s.withTx x) = execSelpage b s
    unfold execSelpage
    rw [href]
    rfl

@[simp] theorem State.withTx_inputs (s : State) (x : Page) : (s.withTx x).inputs = s.inputs := rfl

theorem State.writeSave_withTx (s : State) (x : Page) (b : Byte) :
    (s.withTx x).writeSave b = (s.writeSave b).withTx x := by
  unfold State.writeSave
  split_ifs <;> rfl

/-- Every operation but `TXBYTE`, `RESET` and `SELPAGE` commutes with putting another content in the transmit buffer. -/
theorem exec_withTx (i : Instr) (s : State) (x : Page) (htx : i ≠ .txbyte)
    (hi : ¬ (i = .reset ∨ ∃ b, i = .selpage b)) :
    ∃ t, exec i s = .next t ∧ exec i (s.withTx x) = .next (t.withTx x) := by
  cases i
  case txbyte => exact absurd rfl htx
  case reset => exact absurd (.inl rfl) hi
  case selpage b => exact absurd (.inr ⟨b, rfl⟩) hi
  case addrW =>
    obtain ⟨hl, e⟩ | ⟨hl, e⟩ := execAddrW_cases s
    · exact ⟨_, e, if_pos hl⟩
    · exact ⟨_, e, if_neg (ne_true_of_eq_false hl)⟩
  case addrR =>
    obtain ⟨hl, e⟩ | ⟨hl, e⟩ := execAddrR_cases s
    · exact ⟨_, e, if_pos hl⟩
    · exact ⟨_, e, if_neg (ne_true_of_eq_false hl)⟩
  case flashCommit d =>
    by_cases hc : s.commitEnabled = true
    · exact ⟨_, if_pos hc, if_pos hc⟩
    · exact ⟨_, if_neg hc, if_neg hc⟩
  case setpos | rxdrop | txfill | stop | errAf | errBus | abort => exact ⟨_, rfl, rfl⟩
  case stFreq | stTcxoCoef | stTcxoTemp | stTcxoRmse | save | ign =>
    refine ⟨_, rfl, ?_⟩
    simp only [exec, execStFreq, execStTcxoCoef, execStTcxoTemp, execStTcxoRmse, execSave, execIgn,
      State.writeLive_withTx, State.writeSave_withTx, State.advance_withTx]
  case capture1 | capture2 | capture3 | adc =>
    refine ⟨_, rfl, ?_⟩
    simp only [exec, execCapture1, execCapture2, execCapture3, execAdc, State.captureCommon_withTx,
      State.bumpRollover_withTx, State.writeF16_withTx, State.writeF32_withTx, State.withTx_inputs]

/-- Settles O43: only a page selection or reset writes the buffer, and it overwrites all of it; every other operation but
`TXBYTE` carries a replaced buffer along. -/
theorem transmitBufferWrittenAndReadOnlyThere : Obligations.TransmitBufferWrittenAndReadOnlyThere := by
  refine ⟨fun i s t h htx => ?_, fun i s hi => ?_, fun i s x hread => ?_⟩
  · by_contra hi
    exact htx (exec_keeps_tx_cur i s t hi h).1
  · obtain ⟨t, ht, htx⟩ := exec_selection_tx i s hi
    exact ⟨t, ht, fun j => by rw [htx, State.page_getElem]⟩
  · by_cases hi : i = .reset ∨ ∃ b, i = .selpage b
    · obtain ⟨t, ht, -⟩ := exec_selection_tx i s hi
      exact ⟨t, t, ht, (exec_selection_withTx i s x hi).trans ht, State.withTx_tx t⟩
    · obtain ⟨t, ht, hu⟩ := exec_withTx i s x hread hi
      exact ⟨t, t.withTx x, ht, hu, by rw [State.withTx_withTx, State.withTx_tx]⟩

end Sys2Proof.Machine
end

section
/-! SUPPORT. The effective selector (spec/30_encoding.md R66; spec/41_register_writes.md R101): its value, the byte that
dispatches to a page selection, and where the selection records it. -/

namespace Sys2Proof.Machine

/-! ### The value of the effective selector -/

theorem selEff_eq (b : Byte) : selEff b = if b.toNat ≤ 3 then b.setWidth 2 else 0 := by
  rw [selEff, BitVec.setWidth_eq_extractLsb' (by decide)]

theorem selEff_toNat_of_le (b : Byte) (h : b.toNat ≤ 3) : (selEff b).toNat = b.toNat := by
  rw [selEff_eq, if_pos h, BitVec.toNat_setWidth]
  omega

theorem selEff_of_gt (b : Byte) (h : 3 < b.toNat) : selEff b = 0 := if_neg (Nat.not_le.2 h)

/-! ### Which byte is a page selection -/

/-- A byte received at position 31 in `GET_DATA` is a page selection, whatever page is current (R68 row 5, R100). -/
theorem select_rxbyte_at_selector (b : Byte) (s : State) (hst : s.st = .getData) (hpos : s.pos.toNat = 31) :
    select s.ctx (.rxbyte b) = .selpage b := by
  have hctx : s.ctx.pos.toNat = 31 := (s.ctx_pos_toNat (by omega)).trans hpos
  have hrx : select s.ctx (.rxbyte b) = dataOp s.ctx b := by simp only [select, rxOp, s.ctx_eq, hst]
  rw [hrx, dataOp_eq, if_pos hctx]

/-! ### Where a page selection records the selector -/

/-- The refresh of a page selection (R102) reaches the first four bytes of a page only. -/
theorem State.readLive_refresh_of_le (s : State) (p q : BitVec 2) (j : Fin 32) (hj : 4 ≤ j.val) :
    (s.refresh p).readLive q j = s.readLive q j := by
  rw [State.readLive_refresh, if_neg (by omega), if_neg (by omega), if_neg (by omega)]

/-- A page selection leaves the effective selector in `cur`, and byte 31 of that live page in byte 31 of the snapshot. -/
theorem exec_selpage_cur_tx31 (b : Byte) (s : State) :
    ∃ t, exec (.selpage b) s = .next t ∧ t.cur = selEff b ∧ t.tx[31] = s.readLive (selEff b) 31 := by
  refine ⟨_, rfl, by simp, ?_⟩
  rw [State.advance_tx, State.snapshot_tx]
  exact State.readLive_refresh_of_le _ _ _ 31 (by decide)

/-- Settles O11: `exec_selpage_cur_tx31`, where that live byte holds its page's selector. -/
theorem effectiveSelectorIsRecorded : Obligations.EffectiveSelectorIsRecorded := by
  intro b s hsel
  obtain ⟨t, ht, hcur, htx⟩ := exec_selpage_cur_tx31 b s
  rw [hsel] at htx
  refine ⟨select_rxbyte_at_selector b s, t, ht, ?_⟩
  split_ifs with hb
  · have hval : (selEff b).toNat = b.toNat := selEff_toNat_of_le b hb
    refine ⟨by rw [hcur, hval], htx.trans (BitVec.eq_of_toNat_eq ?_)⟩
    rw [BitVec.toNat_setWidth, hval]
    omega
  · have hzero : selEff b = 0 := selEff_of_gt b (Nat.not_le.1 hb)
    exact ⟨hcur.trans hzero, by rw [htx, hzero]; rfl⟩

end Sys2Proof.Machine
end

section
/-! SUPPORT. The offset byte (spec/40_bus_transactions.md R82): which byte it is, and the state that it leaves. -/

namespace Sys2Proof.Machine

/-- A byte received in `GET_ADDR` is the offset byte, whatever page is current and wherever the cursor stands
(R68 row 4). -/
theorem select_rxbyte_at_getAddr (b : Byte) (s : State) (hst : s.st = .getAddr) :
    select s.ctx (.rxbyte b) = .setpos b := by
  simp only [select, rxOp, s.ctx_eq, hst]

/-- The whole effect of the offset byte: the cursor, the protocol state and the action. -/
theorem exec_setpos (b : Byte) (s : State) :
    exec (.setpos b) s = .next ({ s with pos := b.setWidth 9, st := .getData }.emit .requestRx) := rfl

/-- Settles O4: zero-extension to nine bits keeps the byte's value, and `exec_setpos` shows every other field kept. -/
theorem offsetByteSetsCursor : Obligations.OffsetByteSetsCursor := by
  intro b s
  refine ⟨select_rxbyte_at_getAddr b s, _, exec_setpos b s, ?_⟩
  have hpos : (b.setWidth 9).toNat = b.toNat := BitVec.toNat_setWidth_of_le (by decide)
  have hsched := exec_schedule _ _ _ (exec_setpos b s)
  exact ⟨hpos, rfl, rfl, ⟨rfl, rfl, rfl⟩, hsched, rfl, rfl, rfl, rfl⟩

end Sys2Proof.Machine
end

section
/-! SUPPORT. Exceptions (spec/60_exceptions.md): no step halts the engine (R171), and the whole effect of an
address-nack-class error (R151). -/

namespace Sys2Proof.Machine

/-- Settles O37: a held arrival leaves the holding state, and any other runs an operation, which answers by `exec_next`. -/
theorem stepAlwaysAnswersNext : Obligations.StepAlwaysAnswersNext := by
  intro s
  obtain ⟨-, -, hheld⟩ | ⟨-, htaken⟩ := step_cases s
  · exact ⟨s.hold s.nextArrival, hheld⟩
  · obtain ⟨t, ht⟩ := exec_next (select s.ctx s.nextArrival.event) (s.take s.nextArrival)
    exact ⟨t, htaken.trans ht⟩

/-- The whole effect of an address-nack-class error: the protocol state, with no re-arm and no action. -/
theorem exec_errAf (s : State) : exec .errAf s = .next { s with st := .dropData } := rfl

/-- Settles O33: `exec_errAf` shows every field but the protocol state kept. -/
theorem addressNackDropsWithoutRearm : Obligations.AddressNackDropsWithoutRearm := by
  intro s
  have hsched := exec_schedule _ _ _ (exec_errAf s)
  exact ⟨rfl, _, exec_errAf s, rfl, rfl, rfl, ⟨rfl, rfl, rfl⟩, hsched, rfl, rfl, rfl, rfl⟩

end Sys2Proof.Machine
end

section
/-! SUPPORT. Event records (spec/30_encoding.md R60, R67, R68; the record's layout: log 11): which operation an event is in
its context, and that the parser and the encoder are inverse to each other. -/

namespace Sys2Proof

open Machine

/-! ### The operation of an event -/

theorem select_rxbyte_getData (c : Ctx) (b : Byte) (hst : c.st = .getData) :
    select c (.rxbyte b) = dataOp c b := by
  simp only [select, rxOp, hst]

theorem select_rxbyte_drop (c : Ctx) (b : Byte) (hst : c.st = .waiting ∨ c.st = .sendData ∨ c.st = .dropData) :
    select c (.rxbyte b) = .rxdrop b := by
  obtain h | h | h := hst <;> simp only [select, rxOp, h]

/-- The operation of a data byte comes from that byte. -/
theorem dataOp_event (c : Ctx) (b : Byte) : (dataOp c b).event = .rxbyte b := by
  unfold dataOp
  split_ifs <;> rfl

/-- The operation selected for an event comes from that event. -/
theorem select_event (c : Ctx) (e : Event) : (select c e).event = e := by
  cases e
  case rxbyte b =>
    cases hst : c.st
    case getData => rw [select_rxbyte_getData c b hst, dataOp_event]
    all_goals simp only [select, rxOp, hst, Instr.event]
  case txbyte => simp only [select]; split_ifs <;> rfl
  all_goals rfl

/-! ### What the context of a data byte's operation admits -/

theorem selpage_wf_iff (c : Ctx) (b : Byte) :
    (Instr.selpage b).wf c = true ↔ c.st = .getData ∧ c.pos.toNat = 31 := by
  simp only [Instr.wf, Bool.and_eq_true, beq_iff_eq]
  rfl

theorem stFreq_wf_iff (c : Ctx) (a : BitVec 1) (b : Byte) :
    (Instr.stFreq a b).wf c = true ↔ c.st = .getData ∧ c.cur = 0 ∧ c.pos.toNat = 26 + a.toNat := by
  have ha := a.isLt
  simp only [Instr.wf, Bool.and_eq_true, beq_iff_eq, c.atFreq_iff, freqOffset, and_assoc]
  exact ⟨fun ⟨hst, hcur, _, hpos⟩ => ⟨hst, hcur, hpos⟩, fun ⟨hst, hcur, hpos⟩ => ⟨hst, hcur, by omega, hpos⟩⟩

theorem stTcxoCoef_wf_iff (c : Ctx) (a : BitVec 4) (b : Byte) :
    (Instr.stTcxoCoef a b).wf c = true ↔ c.st = .getData ∧ c.cur = 2 ∧ c.pos.toNat = a.toNat := by
  simp only [Instr.wf, Bool.and_eq_true, beq_iff_eq, and_assoc]

theorem stTcxoTemp_wf_iff (c : Ctx) (a : BitVec 1) (b : Byte) :
    (Instr.stTcxoTemp a b).wf c = true ↔ c.st = .getData ∧ c.cur = 2 ∧ c.pos.toNat = 16 + a.toNat := by
  simp only [Instr.wf, Bool.and_eq_true, beq_iff_eq, and_assoc]

theorem stTcxoRmse_wf_iff (c : Ctx) (b : Byte) :
    (Instr.stTcxoRmse b).wf c = true ↔ c.st = .getData ∧ c.cur = 2 ∧ c.pos.toNat = 18 := by
  simp only [Instr.wf, Bool.and_eq_true, beq_iff_eq, and_assoc]

theorem save_wf_iff (c : Ctx) (b : Byte) :
    (Instr.save b).wf c = true ↔ c.st = .getData ∧ c.cur = 2 ∧ c.pos.toNat = 19 := by
  simp only [Instr.wf, Bool.and_eq_true, beq_iff_eq, and_assoc]
  rfl

theorem ign_wf_iff (c : Ctx) (b : Byte) :
    (Instr.ign b).wf c = true ↔ c.st = .getData ∧ ¬ c.pos.toNat = 31 ∧
      ¬ (c.cur = 0 ∧ (c.pos.toNat = 26 ∨ c.pos.toNat = 27)) ∧ ¬ (c.cur = 2 ∧ c.pos.toNat ≤ 19) := by
  simp only [Instr.wf, Bool.and_eq_true, beq_iff_eq, bne_iff_ne, Bool.not_eq_true', Bool.eq_false_iff, ne_eq,
    c.atFreq_iff, c.atTcxo_iff, and_assoc]
  rfl

/-! ### The operation of an event is the one its context admits -/

/-- The operation selected for a data byte is one that its context admits. -/
theorem dataOp_wf (c : Ctx) (b : Byte) (hst : c.st = .getData) : (dataOp c b).wf c = true := by
  rw [dataOp_eq]
  split_ifs <;> simp only [selpage_wf_iff, stFreq_wf_iff, stTcxoCoef_wf_iff, stTcxoTemp_wf_iff, stTcxoRmse_wf_iff,
    save_wf_iff, ign_wf_iff, hst, true_and, BitVec.toNat_ofNat] <;> grind

/-- The operation selected for an event is one that the context admits. -/
theorem select_wf (c : Ctx) (e : Event) : (select c e).wf c = true := by
  cases e
  case rxbyte b =>
    cases hst : c.st
    case getData => rw [select_rxbyte_getData c b hst]; exact dataOp_wf c b hst
    all_goals simp [select, rxOp, hst, Instr.wf]
  case txbyte => simp only [select]; split_ifs with hst <;> simp [Instr.wf, hst]
  all_goals rfl

/-- A position field below its width is known from its number. -/
theorem ofNat_eq_of_toNat_eq {w : Nat} (a : BitVec w) (n : Nat) (h : n = a.toNat) : BitVec.ofNat w n = a := by
  rw [h, BitVec.ofNat_toNat, BitVec.setWidth_eq]

/-- A context that admits an operation selects it for the event it comes from. -/
theorem select_event_of_wf (c : Ctx) (i : Instr) (hi : i.wf c = true) : select c i.event = i := by
  cases i
  case setpos b => simp only [Instr.wf, beq_iff_eq] at hi; simp only [Instr.event, select, rxOp, hi]
  case rxdrop b => cases hst : c.st <;> simp_all [Instr.wf, Instr.event, select, rxOp]
  case txbyte | txfill => simp_all [Instr.wf, Instr.event, select]
  case selpage b =>
    obtain ⟨hst, hpos⟩ := (selpage_wf_iff c b).1 hi
    rw [Instr.event, select_rxbyte_getData c b hst, dataOp_eq, if_pos hpos]
  case stFreq a b =>
    obtain ⟨hst, hcur, hpos⟩ := (stFreq_wf_iff c a b).1 hi
    have ha := a.isLt
    rw [Instr.event, select_rxbyte_getData c b hst, dataOp_eq, if_neg (by omega), if_neg (by omega),
      if_pos ⟨hcur, by omega⟩, ofNat_eq_of_toNat_eq a _ (by omega)]
  case stTcxoCoef a b =>
    obtain ⟨hst, hcur, hpos⟩ := (stTcxoCoef_wf_iff c a b).1 hi
    have ha := a.isLt
    rw [Instr.event, select_rxbyte_getData c b hst, dataOp_eq, if_neg (by omega), if_neg (by omega),
      if_neg (by simp [hcur]), if_pos ⟨hcur, by omega⟩, ofNat_eq_of_toNat_eq a _ hpos]
  case stTcxoTemp a b =>
    obtain ⟨hst, hcur, hpos⟩ := (stTcxoTemp_wf_iff c a b).1 hi
    have ha := a.isLt
    rw [Instr.event, select_rxbyte_getData c b hst, dataOp_eq, if_neg (by omega), if_neg (by omega),
      if_neg (by simp [hcur]), if_neg (by omega), if_pos ⟨hcur, by omega⟩, ofNat_eq_of_toNat_eq a _ (by omega)]
  case stTcxoRmse b =>
    obtain ⟨hst, hcur, hpos⟩ := (stTcxoRmse_wf_iff c b).1 hi
    rw [Instr.event, select_rxbyte_getData c b hst, dataOp_eq]
    simp [hcur, hpos]
  case save b =>
    obtain ⟨hst, hcur, hpos⟩ := (save_wf_iff c b).1 hi
    rw [Instr.event, select_rxbyte_getData c b hst, dataOp_eq]
    simp [hcur, hpos]
  case ign b =>
    obtain ⟨hst, hsel, hfreq, htcxo⟩ := (ign_wf_iff c b).1 hi
    rw [Instr.event, select_rxbyte_getData c b hst, dataOp_eq]
    grind
  all_goals rfl

/-! ### Operands, read and written -/

/-- A sequence of two readings succeeds exactly when both do. -/
theorem bind_eq_ok_iff {ε α β : Type} (x : Except ε α) (f : α → Except ε β) (y : β) :
    (x >>= f) = .ok y ↔ ∃ a, x = .ok a ∧ f a = .ok y := by
  cases x with
  | error e => exact ⟨nofun, nofun⟩
  | ok a => exact ⟨fun h => ⟨a, rfl, h⟩, fun ⟨_, ha, h⟩ => by injection ha with ha; exact ha ▸ h⟩

theorem halfBytes_halfOf (lo hi : Byte) : halfBytes (halfOf lo hi) = [lo, hi] := by
  have h0 : leByte (halfOf lo hi) 0 = lo := by unfold leByte halfOf; ext i hi; simp; grind
  have h1 : leByte (halfOf lo hi) 1 = hi := by unfold leByte halfOf; ext i hi; simp; grind
  rw [halfBytes, h0, h1]

theorem wordBytes_wordOf (b3 b2 b1 b0 : Byte) : wordBytes (wordOf b3 b2 b1 b0) = [b0, b1, b2, b3] := by
  have h0 : leByte (wordOf b3 b2 b1 b0) 0 = b0 := by unfold leByte wordOf; ext i hi; simp; grind
  have h1 : leByte (wordOf b3 b2 b1 b0) 1 = b1 := by unfold leByte wordOf; ext i hi; simp; grind
  have h2 : leByte (wordOf b3 b2 b1 b0) 2 = b2 := by unfold leByte wordOf; ext i hi; simp; grind
  have h3 : leByte (wordOf b3 b2 b1 b0) 3 = b3 := by unfold leByte wordOf; ext i hi; simp; grind
  rw [wordBytes, h0, h1, h2, h3]

/-- A 16-bit operand is read exactly from its two bytes. -/
theorem takeHalf_eq_ok_iff (bs r : List Byte) (v : Half) :
    takeHalf bs = .ok (v, r) ↔ bs = halfBytes v ++ r := by
  constructor
  · intro h
    match bs, h with
    | lo :: hi :: bs, h =>
      simp only [takeHalf, Except.ok.injEq, Prod.mk.injEq] at h
      obtain ⟨rfl, rfl⟩ := h
      rw [halfBytes_halfOf]; rfl
  · rintro rfl
    exact takeHalf_halfBytes v r

/-- A 32-bit operand is read exactly from its four bytes. -/
theorem takeWord_eq_ok_iff (bs r : List Byte) (v : Word) :
    takeWord bs = .ok (v, r) ↔ bs = wordBytes v ++ r := by
  constructor
  · intro h
    match bs, h with
    | b0 :: b1 :: b2 :: b3 :: bs, h =>
      simp only [takeWord, Except.ok.injEq, Prod.mk.injEq] at h
      obtain ⟨rfl, rfl⟩ := h
      rw [wordBytes_wordOf]; rfl
  · rintro rfl
    exact takeWord_wordBytes v r

/-- The six bits of a flag byte below 64 are the whole byte. -/
theorem drawFlags_of_bits (f : Byte) (hf : f.toNat < 64) (junk : Vector Word 5) :
    drawFlags ⟨f.getLsbD 0, #v[f.getLsbD 1, f.getLsbD 2, f.getLsbD 3, f.getLsbD 4, f.getLsbD 5], junk⟩ = f := by
  have h : ∀ f : Byte, f.toNat < 64 → (0#2 ++ BitVec.ofBool (f.getLsbD 5) ++ BitVec.ofBool (f.getLsbD 4) ++
      BitVec.ofBool (f.getLsbD 3) ++ BitVec.ofBool (f.getLsbD 2) ++ BitVec.ofBool (f.getLsbD 1) ++
      BitVec.ofBool (f.getLsbD 0) : BitVec 8) = f := by decide
  exact h f hf

/-- The flag byte holds `erase_ok` in bit 0 and `prog_ok[k]` in bit `k + 1`. -/
theorem drawFlags_bits (d : FlashDraws) :
    (drawFlags d).getLsbD 0 = d.eraseOk ∧ (drawFlags d).getLsbD 1 = d.progOk[0] ∧ (drawFlags d).getLsbD 2 = d.progOk[1] ∧
      (drawFlags d).getLsbD 3 = d.progOk[2] ∧ (drawFlags d).getLsbD 4 = d.progOk[3] ∧
      (drawFlags d).getLsbD 5 = d.progOk[4] := by
  have h : ∀ e p0 p1 p2 p3 p4 : Bool, ∀ f : Byte, f = (0#2 ++ BitVec.ofBool p4 ++ BitVec.ofBool p3 ++ BitVec.ofBool p2 ++
      BitVec.ofBool p1 ++ BitVec.ofBool p0 ++ BitVec.ofBool e : BitVec 8) →
      f.getLsbD 0 = e ∧ f.getLsbD 1 = p0 ∧ f.getLsbD 2 = p1 ∧ f.getLsbD 3 = p2 ∧ f.getLsbD 4 = p3 ∧ f.getLsbD 5 = p4 := by
    rintro e p0 p1 p2 p3 p4 f rfl
    revert e p0 p1 p2 p3 p4
    decide
  exact h _ _ _ _ _ _ _ rfl

/-- A vector of five is the list of its elements. -/
theorem vector5_eta {α : Type} (v : Vector α 5) : #v[v[0], v[1], v[2], v[3], v[4]] = v := by
  apply Vector.ext
  intro i hi
  interval_cases i <;> rfl

/-- The draws of FLASH.COMMIT are read exactly from their flag byte and five words. -/
theorem takeDraws_eq_ok_iff (bs r : List Byte) (d : FlashDraws) :
    takeDraws bs = .ok (d, r) ↔ bs = (Event.flashCommit d).operandBytes ++ r := by
  cases bs with
  | nil => simp [takeDraws, Event.operandBytes]
  | cons f bs =>
    by_cases hf : f.toNat < 64
    · simp only [takeDraws, hf, if_true, bind_eq_ok_iff, Prod.exists, takeWord_eq_ok_iff, Event.operandBytes,
        List.cons_append, List.cons.injEq, List.append_assoc, Except.ok.injEq, Prod.mk.injEq]
      constructor
      · rintro ⟨j0, _, rfl, j1, _, rfl, j2, _, rfl, j3, _, rfl, j4, _, rfl, rfl, rfl⟩
        exact ⟨(drawFlags_of_bits f hf _).symm, rfl⟩
      · rintro ⟨rfl, rfl⟩
        obtain ⟨he, h0, h1, h2, h3, h4⟩ := drawFlags_bits d
        refine ⟨_, _, rfl, _, _, rfl, _, _, rfl, _, _, rfl, _, _, rfl, ?_, rfl⟩
        simp only [he, h0, h1, h2, h3, h4, vector5_eta]
    · have hd := drawFlags_lt d
      simp only [takeDraws, hf, if_false, Event.operandBytes, List.cons_append, List.cons.injEq]
      exact ⟨nofun, fun ⟨h, _⟩ => absurd (h ▸ hd) hf⟩

/-! ### Events -/

/-- An event with its operands is read exactly from its code and its operand bytes. -/
theorem parseEvent_eq_ok_iff (code : BitVec 4) (ops r : List Byte) (e : Event) :
    parseEvent code ops = .ok (e, r) ↔ code = e.code ∧ ops = e.operandBytes ++ r := by
  constructor
  · intro h
    have hcode : ∀ n : Nat, code.toNat = n → code = BitVec.ofNat 4 n := by rintro n rfl; simp
    unfold parseEvent at h
    split at h
    case h_4 hc =>
      cases ops with
      | nil => cases h
      | cons b ops =>
        simp only [Except.ok.injEq, Prod.mk.injEq] at h
        obtain ⟨rfl, rfl⟩ := h
        exact ⟨hcode _ hc, rfl⟩
    case h_10 hc | h_11 hc | h_12 hc | h_14 hc =>
      simp only [bind_eq_ok_iff, Prod.exists, takeHalf_eq_ok_iff, takeDraws_eq_ok_iff, Except.ok.injEq,
        Prod.mk.injEq] at h
      obtain ⟨_, _, rfl, rfl, rfl⟩ := h
      exact ⟨hcode _ hc, rfl⟩
    case h_13 hc =>
      simp only [bind_eq_ok_iff, Prod.exists, takeHalf_eq_ok_iff, Except.ok.injEq, Prod.mk.injEq] at h
      obtain ⟨t, _, rfl, v, _, rfl, x, _, rfl, rfl, rfl⟩ := h
      exact ⟨hcode _ hc, by simp only [Event.operandBytes, List.append_assoc]⟩
    case h_15 => cases h
    all_goals
      simp only [Except.ok.injEq, Prod.mk.injEq] at h
      obtain ⟨rfl, rfl⟩ := h
      exact ⟨hcode _ ‹_›, rfl⟩
  · rintro ⟨rfl, rfl⟩
    cases e
    all_goals simp [parseEvent, Event.code, Event.operandBytes, bind_eq_ok_iff, takeHalf_eq_ok_iff, takeDraws_eq_ok_iff]

/-! ### Decode words -/

theorem decodeWord_code (c : Ctx) (e : Event) : (decodeWord c e).extractLsb' 13 4 = e.code := by
  unfold decodeWord; ext i hi; simp; grind

theorem decodeWord_st (c : Ctx) (e : Event) : (decodeWord c e).extractLsb' 10 3 = c.st.code := by
  unfold decodeWord; ext i hi; simp; grind

theorem decodeWord_cur (c : Ctx) (e : Event) : (decodeWord c e).extractLsb' 8 2 = c.cur := by
  unfold decodeWord; ext i hi; simp; grind

theorem decodeWord_pos (c : Ctx) (e : Event) : (decodeWord c e).extractLsb' 0 8 = c.pos := by
  unfold decodeWord; ext i hi; simp; grind

/-- A decode word is its four fields. -/
theorem eq_decodeWord_iff (w : BitVec 17) (c : Ctx) (e : Event) :
    w = decodeWord c e ↔ w.extractLsb' 13 4 = e.code ∧ w.extractLsb' 10 3 = c.st.code ∧ w.extractLsb' 8 2 = c.cur ∧
      w.extractLsb' 0 8 = c.pos := by
  constructor
  · rintro rfl
    exact ⟨decodeWord_code c e, decodeWord_st c e, decodeWord_cur c e, decodeWord_pos c e⟩
  · rintro ⟨he, hs, hc, hp⟩
    unfold decodeWord
    rw [← he, ← hs, ← hc, ← hp]
    ext i hi; simp; grind

/-- A state code names the state it is the code of, and no other. -/
theorem phaseOfCode_eq_some_iff (code : BitVec 3) (p : Phase) : phaseOfCode code = some p ↔ code = p.code := by
  constructor
  · intro h
    have hcode : ∀ n : Nat, code.toNat = n → code = BitVec.ofNat 3 n := by rintro n rfl; simp
    unfold phaseOfCode at h
    split at h
    case h_6 => cases h
    all_goals
      injection h with h
      subst h
      exact hcode _ ‹_›
  · rintro rfl
    exact phaseOfCode_code p

/-- A field of a decode word does not see the seven zero bits above it. -/
theorem extractLsb'_setWidth_24 (w : BitVec 17) (start len : Nat) (h : start + len ≤ 17) :
    (w.setWidth 24).extractLsb' start len = w.extractLsb' start len := by
  ext i hi
  simp only [BitVec.getElem_extractLsb', BitVec.getLsbD_setWidth, decide_eq_true (show start + i < 24 by omega),
    Bool.true_and]

/-- The three bytes of a 24-bit string. -/
theorem bytes_of_append (b2 b1 b0 : Byte) :
    [b0, b1, b2] = [leByte (b2 ++ b1 ++ b0) 0, leByte (b2 ++ b1 ++ b0) 1, leByte (b2 ++ b1 ++ b0) 2] := by
  have h0 : leByte (b2 ++ b1 ++ b0) 0 = b0 := by unfold leByte; ext i hi; simp; grind
  have h1 : leByte (b2 ++ b1 ++ b0) 1 = b1 := by unfold leByte; ext i hi; simp; grind
  have h2 : leByte (b2 ++ b1 ++ b0) 2 = b2 := by unfold leByte; ext i hi; simp; grind
  rw [h0, h1, h2]

/-- Three bytes that spell a number below `2^17` are those of a decode word. -/
theorem bytes_eq_decodeWordBytes (b0 b1 b2 : Byte) (h : (b2 ++ b1 ++ b0 : BitVec 24).toNat < 2 ^ 17) :
    ∃ w : BitVec 17, [b0, b1, b2] = decodeWordBytes w := by
  have hw : ((b2 ++ b1 ++ b0 : BitVec 24).setWidth 17).setWidth 24 = b2 ++ b1 ++ b0 := by
    apply BitVec.eq_of_toNat_eq
    rw [BitVec.toNat_setWidth, BitVec.toNat_setWidth]
    omega
  rw [← decodeWord_of_bytes] at hw
  exact ⟨_, by rw [bytes_of_append, ← hw, ← bytes_of_append]; rfl⟩

/-! ### Records -/

/-- A decode word with a state code: the context's three fields, and the event that follows them. -/
theorem parse_decodeWordBytes (w : BitVec 17) (ops : List Byte) (st : Phase)
    (hst : phaseOfCode (w.extractLsb' 10 3) = some st) :
    parse (decodeWordBytes w ++ ops) = (parseEvent (w.extractLsb' 13 4) ops >>= fun p =>
      .ok (⟨st, w.extractLsb' 8 2, w.extractLsb' 0 8⟩, p.1, p.2)) := by
  have hlt : (w.setWidth 24).toNat < 2 ^ 17 := by rw [BitVec.toNat_setWidth]; omega
  simp only [decodeWordBytes, List.cons_append, List.nil_append, parse, decodeWord_of_bytes, hlt, if_true,
    extractLsb'_setWidth_24, Nat.reduceAdd, Nat.reduceLeDiff, hst]

/-- A decode word with a reserved state code is refused (R67), whatever the event. -/
theorem parse_reserved_state (w : BitVec 17) (ops : List Byte) (hst : phaseOfCode (w.extractLsb' 10 3) = none) :
    parse (decodeWordBytes w ++ ops) = .error (.noSuchState (w.extractLsb' 10 3)) := by
  have hlt : (w.setWidth 24).toNat < 2 ^ 17 := by rw [BitVec.toNat_setWidth]; omega
  simp only [decodeWordBytes, List.cons_append, List.nil_append, parse, decodeWord_of_bytes, hlt, if_true,
    extractLsb'_setWidth_24, Nat.reduceAdd, Nat.reduceLeDiff, hst]

/-- What the parser accepts begins with a decode word whose state code names a state. -/
theorem parse_ok_decodeWordBytes (bs : List Byte) (p : Ctx × Event × List Byte) (h : parse bs = .ok p) :
    ∃ (w : BitVec 17) (ops : List Byte) (st : Phase), bs = decodeWordBytes w ++ ops ∧
      phaseOfCode (w.extractLsb' 10 3) = some st := by
  match bs, h with
  | b0 :: b1 :: b2 :: ops, h =>
    by_cases hlt : (b2 ++ b1 ++ b0 : BitVec 24).toNat < 2 ^ 17
    · obtain ⟨w, hw⟩ := bytes_eq_decodeWordBytes b0 b1 b2 hlt
      have hbs : b0 :: b1 :: b2 :: ops = decodeWordBytes w ++ ops := by rw [← hw]; rfl
      cases hst : phaseOfCode (w.extractLsb' 10 3) with
      | none => rw [hbs, parse_reserved_state w ops hst] at h; cases h
      | some st => exact ⟨w, ops, st, hbs, hst⟩
    · simp only [parse, hlt, if_false] at h
      cases h

/-- The parser and the encoder are inverse: a context and an event are read exactly from their record. -/
theorem parse_eq_ok_iff (bs r : List Byte) (c : Ctx) (e : Event) :
    parse bs = .ok (c, e, r) ↔ bs = encodeEvent c e ++ r := by
  constructor
  · intro h
    obtain ⟨w, ops, st, rfl, hst⟩ := parse_ok_decodeWordBytes bs _ h
    simp only [parse_decodeWordBytes w ops st hst, bind_eq_ok_iff, Prod.exists, parseEvent_eq_ok_iff, Except.ok.injEq,
      Prod.mk.injEq] at h
    obtain ⟨_, _, ⟨hcode, rfl⟩, rfl, rfl, rfl⟩ := h
    have hw := (eq_decodeWord_iff w ⟨st, w.extractLsb' 8 2, w.extractLsb' 0 8⟩ _).2
      ⟨hcode, (phaseOfCode_eq_some_iff _ _).1 hst, rfl, rfl⟩
    rw [encodeEvent, ← hw, List.append_assoc]
  · rintro rfl
    have hst : phaseOfCode ((decodeWord c e).extractLsb' 10 3) = some c.st := by rw [decodeWord_st, phaseOfCode_code]
    rw [encodeEvent, List.append_assoc, parse_decodeWordBytes _ _ c.st hst, bind_eq_ok_iff]
    refine ⟨(e, r), (parseEvent_eq_ok_iff _ _ _ _).2 ⟨decodeWord_code c e, rfl⟩, ?_⟩
    rw [decodeWord_cur, decodeWord_pos]

/-- The decoder reads the operation of an event from the event's record, and nothing else from anything else. -/
theorem decode_eq_ok_iff (bs r : List Byte) (i : Instr) :
    decode bs = .ok (i, r) ↔ ∃ c e, bs = encodeEvent c e ++ r ∧ select c e = i := by
  simp only [decode, bind_eq_ok_iff, Prod.exists, parse_eq_ok_iff, Except.ok.injEq, Prod.mk.injEq]
  constructor
  · rintro ⟨c, e, r, hbs, hi, rfl⟩
    exact ⟨c, e, hbs, hi⟩
  · rintro ⟨c, e, hbs, hi⟩
    exact ⟨c, e, r, hbs, hi, rfl⟩

/-- Settles O49: `decode_eq_ok_iff`, since the context that admits the operation selects it. -/
theorem decodeEncodeRoundTrip : Obligations.DecodeEncodeRoundTrip := by
  intro c i rest hi
  exact (decode_eq_ok_iff _ _ _).2 ⟨c, i.event, rfl, select_event_of_wf c i hi⟩

/-- Settles O50: by `decode_eq_ok_iff` the bytes are an event's record, and the operation selected for an event comes from
it and is admitted by its context. -/
theorem decodedBytesAreARecord : Obligations.DecodedBytesAreARecord := by
  intro bs rest i h
  obtain ⟨c, e, hbs, rfl⟩ := (decode_eq_ok_iff _ _ _).1 h
  exact ⟨c, select_wf c e, by rw [encode, select_event, hbs]⟩

/-- A state code above 4 names no state. -/
theorem phaseOfCode_eq_none (code : BitVec 3) (h : 5 ≤ code.toNat) : phaseOfCode code = none := by
  revert code; decide

/-- A state code up to 4 names a state. -/
theorem phaseOfCode_eq_some_of_le (code : BitVec 3) (h : code.toNat ≤ 4) : ∃ st, phaseOfCode code = some st := by
  rw [← Option.isSome_iff_exists]
  revert code; decide

/-- An event code above 13 names no event. -/
theorem parseEvent_reserved (code : BitVec 4) (ops : List Byte) (h : 14 ≤ code.toNat) :
    parseEvent code ops = .error (.noSuchEvent code) := by
  have hcode : code = 14 ∨ code = 15 := by revert code; decide
  obtain rfl | rfl := hcode <;> rfl

/-- Settles O53: `parse_reserved_state` where the state code names no state, else `parseEvent_reserved`. -/
theorem reservedCodesAreRefused : Obligations.ReservedCodesAreRefused := by
  intro w ops
  refine ⟨fun hst => ?_, fun hst he => ?_⟩
  · rw [decode, parse_reserved_state w ops (phaseOfCode_eq_none _ hst)]
    rfl
  · obtain ⟨st, hst⟩ := phaseOfCode_eq_some_of_le _ hst
    rw [decode, parse_decodeWordBytes w ops st hst, parseEvent_reserved _ ops he]
    rfl

/-- Settles O54: each record evaluates to its operation. -/
theorem writtenOutWordsDecode : Obligations.WrittenOutWordsDecode :=
  ⟨rfl, rfl, rfl, rfl, rfl, rfl, rfl, rfl, rfl, rfl, rfl, rfl, rfl⟩

end Sys2Proof
end

section
/-! SUPPORT. The opcode table (spec/30_encoding.md R67, R68; spec/41_register_writes.md R100): the first row that a decode
word matches is the row of the operation selected for the event. -/

namespace Sys2Proof

open Machine

/-! ### Which row the dispatch of a data byte gives -/

/-- The row of a data byte's operation, one test a line (R100). -/
theorem dataOp_row (c : Ctx) (b : Byte) :
    (dataOp c b).row =
      if c.pos.toNat = 31 then 5
      else if 32 ≤ c.pos.toNat then 11
      else if c.cur = 0 ∧ (c.pos.toNat = 26 ∨ c.pos.toNat = 27) then 6
      else if c.cur = 2 ∧ c.pos.toNat < 16 then 7
      else if c.cur = 2 ∧ c.pos.toNat < 18 then 8
      else if c.cur = 2 ∧ c.pos.toNat = 18 then 9
      else if c.cur = 2 ∧ c.pos.toNat = 19 then 10
      else 11 := by
  rw [dataOp_eq]
  split_ifs <;> rfl

/-- Settles O52: `dataOp_row`, with the three rows of the calibration record under one test. -/
theorem dataByteDispatchChain : Obligations.DataByteDispatchChain := by
  intro c b hst
  rw [select_rxbyte_getData c b hst, dataOp_row]
  by_cases hcur : c.cur = 2
  · simp only [hcur, true_and]
    split_ifs <;> first | rfl | omega
  · simp only [hcur, false_and, if_false]

/-! ### Matching a row field by field -/

/-- A 17-bit word is its four fields. -/
theorem word_eq_fields (w : BitVec 17) :
    w = w.extractLsb' 13 4 ++ w.extractLsb' 10 3 ++ w.extractLsb' 8 2 ++ w.extractLsb' 0 8 := by
  ext i hi; simp; grind

/-- A decode word matches a pattern under a mask exactly when each of its four fields does. -/
theorem decodeWord_and_eq_iff (c : Ctx) (e : Event) (m p : BitVec 17) :
    decodeWord c e &&& m = p ↔
      e.code &&& m.extractLsb' 13 4 = p.extractLsb' 13 4 ∧ c.st.code &&& m.extractLsb' 10 3 = p.extractLsb' 10 3 ∧
        c.cur &&& m.extractLsb' 8 2 = p.extractLsb' 8 2 ∧ c.pos &&& m.extractLsb' 0 8 = p.extractLsb' 0 8 := by
  constructor
  · rintro rfl
    rw [← decodeWord_code c e, ← decodeWord_st c e, ← decodeWord_cur c e, ← decodeWord_pos c e]
    refine ⟨?_, ?_, ?_, ?_⟩ <;> (ext i hi; simp)
  · rintro ⟨he, hs, hc, hp⟩
    rw [word_eq_fields m, decodeWord_and, he, hs, hc, hp, ← word_eq_fields p]

/-! ### The tests of the data byte rows in plain numbers -/

theorem pos_and_FF_eq_iff (p x : Byte) : p &&& 255#8 = x ↔ p.toNat = x.toNat := by
  rw [show (255#8 : Byte) = BitVec.allOnes 8 from rfl, BitVec.and_allOnes, BitVec.toNat_inj]

theorem cur_and_3_eq_iff (p x : BitVec 2) : p &&& 3#2 = x ↔ p = x := by
  rw [show (3#2 : BitVec 2) = BitVec.allOnes 2 from rfl, BitVec.and_allOnes]

theorem pos_and_FE_eq_1A_iff (p : Byte) : p &&& 254#8 = 26#8 ↔ p.toNat = 26 ∨ p.toNat = 27 := by revert p; decide
theorem pos_and_FE_eq_10_iff (p : Byte) : p &&& 254#8 = 16#8 ↔ p.toNat = 16 ∨ p.toNat = 17 := by revert p; decide
theorem pos_and_F0_eq_00_iff (p : Byte) : p &&& 240#8 = 0#8 ↔ p.toNat < 16 := by revert p; decide

/-- The first match of a table, one row at a time. -/
theorem find_cons_map {α β : Type} (p : α → Bool) (f : α → β) (a : α) (l : List α) :
    ((a :: l).find? p).map f = if p a = true then some (f a) else (l.find? p).map f := by
  rw [List.find?_cons]
  cases p a <;> rfl

/-- The table's rows 5 to 11 are the chain of tests of R100. -/
theorem dataOp_row_eq_masks (c : Ctx) (b : Byte) :
    (dataOp c b).row =
      if c.pos &&& 255#8 = 31#8 then 5
      else if c.cur &&& 3#2 = 0#2 ∧ c.pos &&& 254#8 = 26#8 then 6
      else if c.cur &&& 3#2 = 2#2 ∧ c.pos &&& 240#8 = 0#8 then 7
      else if c.cur &&& 3#2 = 2#2 ∧ c.pos &&& 254#8 = 16#8 then 8
      else if c.cur &&& 3#2 = 2#2 ∧ c.pos &&& 255#8 = 18#8 then 9
      else if c.cur &&& 3#2 = 2#2 ∧ c.pos &&& 255#8 = 19#8 then 10
      else 11 := by
  simp only [dataOp_row, pos_and_FF_eq_iff, cur_and_3_eq_iff, pos_and_FE_eq_1A_iff, pos_and_FE_eq_10_iff,
    pos_and_F0_eq_00_iff, BitVec.reduceToNat, BitVec.ofNat_eq_ofNat]
  by_cases h2 : c.cur = 2#2
  · simp only [h2, true_and, BitVec.reduceEq, false_and, if_false]
    split_ifs <;> first | rfl | omega
  · simp only [h2, false_and, if_false]
    split_ifs <;> first | rfl | omega

/-- Settles O51: the table is tried row by row with its fields read apart; only a data byte's row depends on more than the
event and state codes, and that is `dataOp_row_eq_masks`. -/
theorem decodeFollowsOpcodeTable : Obligations.DecodeFollowsOpcodeTable := by
  intro c e
  unfold firstRow opcodeTable opcodeRowsLow opcodeRowsHigh
  simp only [List.cons_append, List.nil_append, find_cons_map, beq_iff_eq, decodeWord_and_eq_iff]
  cases e
  case rxbyte b =>
    cases hst : c.st
    case getData =>
      rw [select_rxbyte_getData c b hst, dataOp_row_eq_masks]
      simp [Event.code, Phase.code, apply_ite some]
    all_goals simp [select, rxOp, Instr.row, Event.code, Phase.code, hst]
  case txbyte => cases hst : c.st <;> simp [select, Instr.row, Event.code, Phase.code, hst]
  all_goals simp [select, Instr.row, Event.code]

end Sys2Proof
end

section
/-! SUPPORT. Frames: what an operation that stores live bytes leaves alone, what the tail of a data byte adds
(spec/40_bus_transactions.md R83), and which live bytes each operation may store. -/

namespace Sys2Proof.Machine

/-! ### Updates of the live pages only -/

/-- `t` is `s` but for the live pages. -/
def State.OnlyLive (s t : State) : Prop := t = { s with live := t.live }

theorem State.OnlyLive.refl (s : State) : s.OnlyLive s := rfl
theorem State.writeLive_onlyLive (s : State) (p : BitVec 2) (i : Fin 32) (v : Byte) : s.OnlyLive (s.writeLive p i v) := rfl
theorem State.writeSave_onlyLive (s : State) (b : Byte) : s.OnlyLive (s.writeSave b) := s.writeSave_eq b

variable {s t : State}

theorem State.OnlyLive.eq (h : s.OnlyLive t) : t = { s with live := t.live } := h
theorem State.OnlyLive.tx (h : s.OnlyLive t) : t.tx = s.tx := by rw [h.eq]
theorem State.OnlyLive.flash (h : s.OnlyLive t) : t.flash = s.flash := by rw [h.eq]
theorem State.OnlyLive.out (h : s.OnlyLive t) : t.out = s.out := by rw [h.eq]
theorem State.OnlyLive.sameProtocol (h : s.OnlyLive t) : s.SameProtocol t := by
  rw [h.eq]; exact ⟨rfl, rfl, rfl, rfl, rfl, rfl⟩
theorem State.OnlyLive.sameSchedule (h : s.OnlyLive t) : s.SameSchedule t := by
  rw [h.eq]; exact ⟨rfl, rfl, rfl, rfl⟩

/-! ### The tail of a data byte -/

/-- The tail is done on any state with the old cursor, protocol state and action. -/
theorem State.advance_tailDone (hpos : t.pos = s.pos) (hst : t.st = s.st) (hout : t.out = s.out) :
    s.TailDone t.advance := by
  refine ⟨by rw [advance_pos, hpos], ?_⟩
  rw [advance_st, advance_out, hpos, hst, hout]
  split_ifs <;> exact ⟨rfl, rfl⟩

/-- What a data byte's step leaves alone when it does not select a page. -/
def State.DataByteFrame (s t : State) : Prop :=
  t.tx = s.tx ∧ t.cur = s.cur ∧ t.irqMask = s.irqMask ∧ s.TailDone t ∧ s.DataFrame t

theorem State.OnlyLive.advance (h : s.OnlyLive t) : s.DataByteFrame t.advance := by
  obtain ⟨hcur, hst, hpos, htxi, hlisten, hmask⟩ := h.sameProtocol
  obtain ⟨hin, hpend, hdrawn, hpat⟩ := h.sameSchedule
  refine ⟨?_, ?_, ?_, State.advance_tailDone hpos hst h.out, ?_, ?_, ?_, ?_, ?_, ?_, ?_⟩ <;>
    simp [h.tx, h.flash, hcur, htxi, hlisten, hmask, hin, hpend, hdrawn, hpat]

/-- A byte stored with the tail of a data byte: the byte at its place, every other live byte as before. -/
theorem State.readLive_writeLive_advance (s : State) (p : BitVec 2) (i : Fin 32) (v : Byte) (n : Nat) (hn : i.val = n)
    (q : BitVec 2) (j : Fin 32) :
    (s.writeLive p i v).advance.readLive q j = if q = p ∧ j.val = n then v else s.readLive q j := by
  simp only [State.advance_readLive, State.readLive_writeLive, ← hn, Fin.ext_iff]

/-! ### The positions of the stored bytes -/

theorem freqPosition_val (a : BitVec 1) : (freqPosition a).val = 26 + a.toNat := by revert a; decide
theorem coefPosition_val (a : BitVec 4) : (coefPosition a).val = a.toNat := rfl
theorem tempPosition_val (a : BitVec 1) : (tempPosition a).val = 16 + a.toNat := by revert a; decide
theorem rmsePosition_val : (rmsePosition : Fin 32).val = 18 := rfl
theorem saveOffset_val : (saveOffset : Fin 32).val = 19 := rfl
theorem statusOffset_val : (statusOffset : Fin 32).val = 20 := rfl

/-! ### The page selection -/

/-- The state that a page selection leaves (R101 to R103, with the tail of R83). -/
def State.selectPage (s : State) (b : Byte) : State :=
  (({ s with cur := selEff b }.refresh (selEff b)).snapshot (selEff b)).advance

theorem exec_selpage (b : Byte) (s : State) : exec (.selpage b) s = .next (s.selectPage b) := rfl

@[simp] theorem State.selectPage_cur (s : State) (b : Byte) : (s.selectPage b).cur = selEff b := by
  simp [State.selectPage]
@[simp] theorem State.selectPage_irqMask (s : State) (b : Byte) : (s.selectPage b).irqMask = false := by
  simp [State.selectPage]

/-- The snapshot of a page selection is the page that it leaves current (R103). -/
theorem State.selectPage_tx (s : State) (b : Byte) (i : Fin 32) :
    (s.selectPage b).tx[i] = (s.selectPage b).readLive (selEff b) i := by
  simp only [State.selectPage, State.advance_tx, State.snapshot_tx, State.page_getElem, State.advance_readLive,
    State.snapshot_readLive]

/-- Every live byte after a page selection: the refresh of the page selected, every other byte as before (R102). -/
theorem State.readLive_selectPage (s : State) (b : Byte) (q : BitVec 2) (j : Fin 32) :
    (s.selectPage b).readLive q j =
      if q = selEff b ∧ selEff b = 0 ∧ j.val < 4 then leByte s.inputs.tick32 j.val
      else if q = selEff b ∧ selEff b = 3 ∧ j.val < 2 then leByte s.inputs.cntLo j.val
      else if q = selEff b ∧ selEff b = 3 ∧ j.val < 4 then leByte s.inputs.cntHi (j.val - 2)
      else s.readLive q j := by
  have hread : ({ s with cur := selEff b } : State).readLive q j = s.readLive q j := rfl
  simp only [State.selectPage, State.advance_readLive, State.snapshot_readLive, State.readLive_refresh, hread]
  by_cases hq : q = selEff b
  · subst hq
    grind
  · grind

/-- A page selection ends in the tail of a data byte. -/
theorem State.selectPage_tailDone (s : State) (b : Byte) : s.TailDone (s.selectPage b) :=
  State.advance_tailDone (by simp) (by simp) (by simp)

theorem State.selectPage_dataFrame (s : State) (b : Byte) : s.DataFrame (s.selectPage b) :=
  ⟨by simp [State.selectPage], by simp [State.selectPage], by simp [State.selectPage], exec_schedule _ _ _ (exec_selpage b s)⟩

/-! ### Which live bytes an operation may store -/

/-- Operation `i` may leave `v` as the live byte `j` of page `q` (R47, R48, R162); what RESET leaves is a table of its
own. -/
def MayStore (i : Instr) (q : BitVec 2) (j : Fin 32) (v : Byte) : Prop :=
  match i with
  | .reset => True
  | .selpage b => q = selEff b ∧ (q = 0 ∨ q = 3) ∧ j.val < 4
  | .stFreq a b => q = 0 ∧ j.val = 26 + a.toNat ∧ v = b
  | .stTcxoCoef a b => q = 2 ∧ j.val = a.toNat ∧ v = b
  | .stTcxoTemp a b => q = 2 ∧ j.val = 16 + a.toNat ∧ v = b
  | .stTcxoRmse b => q = 2 ∧ j.val = 18 ∧ v = b
  | .save b => q = 2 ∧ j.val = 19 ∧ v = b ∧ b ≠ 0
  | .capture1 _ => q = 0 ∧ 4 ≤ j.val ∧ j.val < 14
  | .capture2 _ => q = 0 ∧ (14 ≤ j.val ∧ j.val < 20 ∨ j.val = 28)
  | .capture3 _ => q = 0 ∧ (20 ≤ j.val ∧ j.val < 26 ∨ j.val = 29)
  | .adc _ _ _ => q = 1 ∧ j.val < 10
  | .flashCommit _ => q = 2 ∧ (j.val = 19 ∧ v = 0 ∨ j.val = 20 ∧ v.toNat ≤ 3)
  | .addrW | .addrR | .setpos _ | .ign _ | .rxdrop _ | .txbyte | .txfill | .stop | .errAf | .errBus | .abort => False

/-- The status of a commit is one of the codes up to 3 (R25). -/
theorem State.commitFlash_status_le (s : State) (d : FlashDraws) : (s.commitFlash d).2.toNat ≤ 3 := by
  rw [State.commitFlash_status]
  split_ifs <;> decide

/-- A live byte after an operation is as before or one that the operation may store. -/
theorem exec_readLive_cases (i : Instr) (s t : State) (h : exec i s = .next t) (q : BitVec 2) (j : Fin 32) :
    t.readLive q j = s.readLive q j ∨ MayStore i q j (t.readLive q j) := by
  cases i
  case reset => exact .inr trivial
  case addrW =>
    obtain ⟨-, e⟩ | ⟨-, e⟩ := execAddrW_cases s <;> (injection e.symm.trans h with h; subst h; exact .inl rfl)
  case addrR =>
    obtain ⟨-, e⟩ | ⟨-, e⟩ := execAddrR_cases s <;> (injection e.symm.trans h with h; subst h; exact .inl rfl)
  case setpos | rxdrop | txbyte | txfill | stop | errAf | errBus | abort =>
    injection h with h; subst h; exact .inl rfl
  case ign => injection h with h; subst h; exact .inl (State.advance_readLive s q j)
  case flashCommit d =>
    obtain ⟨-, -, e⟩ | ⟨-, e⟩ := execFlashCommit_cases d s <;> (injection e.symm.trans h with h; subst h)
    · have hs := s.commitFlash_status_le d
      simp only [MayStore, State.readLive_recordCommit, Fin.ext_iff, saveOffset_val, statusOffset_val]
      split_ifs with h19 h20
      · exact .inr ⟨h19.1, .inl ⟨h19.2, rfl⟩⟩
      · exact .inr ⟨h20.1, .inr ⟨h20.2, hs⟩⟩
      · exact .inl rfl
    · exact .inl rfl
  case selpage b =>
    injection (exec_selpage b s).symm.trans h with h
    subst h
    rw [State.readLive_selectPage]
    simp only [MayStore]
    grind
  case stFreq a b | stTcxoCoef a b | stTcxoTemp a b | stTcxoRmse b =>
    injection h with h
    subst h
    simp only [MayStore, State.advance_readLive, State.readLive_writeLive, Fin.ext_iff, freqPosition_val,
      coefPosition_val, tempPosition_val, rmsePosition_val]
    grind
  case save b =>
    injection h with h
    subst h
    simp only [MayStore, State.advance_readLive, State.readLive_writeSave, Fin.ext_iff, saveOffset_val]
    grind
  case capture1 v | capture2 v | capture3 v | adc c v x =>
    injection h with h
    subst h
    simp only [MayStore, State.readLive_writeF16, State.readLive_writeF32, State.readLive_captureCommon,
      State.readLive_bumpRollover, Fin.ext_iff]
    grind

end Sys2Proof.Machine
end

section
/-! SUPPORT. Bus transactions (spec/40_bus_transactions.md R80 to R89) and bus errors (spec/60_exceptions.md R152, R153):
the whole effect of each event, and the next-state table. -/

namespace Sys2Proof.Machine

/-! ### Address matches -/

theorem exec_addrW_of_listen (s : State) (hl : s.listen = true) :
    exec .addrW s = .next ({ s with st := .getAddr }.emit .requestRx) := if_pos hl

theorem exec_addrR_of_listen (s : State) (hl : s.listen = true) :
    exec .addrR s = .next ({ s with st := .sendData, txi := 0 }.emit .startTx) := if_pos hl

/-- Settles O1: `exec_addrW_of_listen` shows every field. -/
theorem addrWriteRequestsOffset : Obligations.AddrWriteRequestsOffset := by
  intro s hl
  have hsched := exec_schedule _ _ _ (exec_addrW_of_listen s hl)
  exact ⟨rfl, _, exec_addrW_of_listen s hl, rfl, rfl, ⟨rfl, rfl, rfl⟩, hsched, rfl, rfl, rfl, rfl, rfl⟩

/-- Settles O2: `exec_addrR_of_listen` shows every field. -/
theorem addrReadStartsTransmission : Obligations.AddrReadStartsTransmission := by
  intro s hl
  have hsched := exec_schedule _ _ _ (exec_addrR_of_listen s hl)
  exact ⟨rfl, _, exec_addrR_of_listen s hl, rfl, rfl, rfl, ⟨rfl, rfl, rfl⟩, hsched, rfl, rfl, rfl, rfl⟩

/-- Settles O3: both address matches test `listen` first. -/
theorem addressMatchNeedsListening : Obligations.AddressMatchNeedsListening := by
  intro s hl
  have hne : ¬ s.listen = true := ne_true_of_eq_false hl
  exact ⟨if_neg hne, if_neg hne⟩

/-! ### Bytes clocked out -/

theorem exec_txbyte (s : State) :
    exec .txbyte s =
      .next ({ s with txi := if s.txi.toNat < 32 then s.txi + 1 else s.txi }.emit (.byte s.txByte)) := rfl

theorem exec_txfill (s : State) : exec .txfill s = .next (s.emit (.byte 0)) := rfl

theorem select_txbyte_sendData (s : State) (hst : s.st = .sendData) : select s.ctx .txbyte = .txbyte := if_pos hst

theorem select_txbyte_elsewhere (s : State) (hst : s.st ≠ .sendData) : select s.ctx .txbyte = .txfill := if_neg hst

/-- Settles O6: `exec_txbyte`, on either side of the last byte of the snapshot. -/
theorem transmitSendsSnapshotThenZeros : Obligations.TransmitSendsSnapshotThenZeros := by
  intro s
  refine ⟨select_txbyte_sendData s, _, exec_txbyte s, ?_, ⟨rfl, rfl, rfl⟩, exec_schedule _ _ _ (exec_txbyte s), rfl, rfl,
    rfl, rfl, rfl⟩
  by_cases h : s.txi.toNat < 32
  · have hnext : (s.txi + 1).toNat = s.txi.toNat + 1 := by bv_omega
    simp only [h, State.txByte, dif_pos, if_true]
    exact ⟨rfl, hnext⟩
  · simp [h, State.txByte]

/-- Settles O7: `exec_txfill` shows the filler byte and every other field kept. -/
theorem fillerByteElsewhere : Obligations.FillerByteElsewhere := by
  intro s
  exact ⟨select_txbyte_elsewhere s, _, exec_txfill s, rfl, ⟨rfl, rfl, rfl⟩, ⟨rfl, rfl, rfl, rfl, rfl, rfl⟩,
    exec_schedule _ _ _ (exec_txfill s)⟩

/-- Settles O45: none of the three reads looks at the cursor, whether an address match is answered or turned away. -/
theorem cursorDoesNotMoveReads : Obligations.CursorDoesNotMoveReads := by
  intro i s pos hi
  obtain rfl | rfl | rfl := hi
  · obtain ⟨hl, e⟩ | ⟨hl, e⟩ := execAddrR_cases s
    · exact ⟨_, e, if_pos hl⟩
    · exact ⟨_, e, if_neg (ne_true_of_eq_false hl)⟩
  · exact ⟨_, rfl, rfl⟩
  · exact ⟨_, rfl, rfl⟩

/-! ### The end of a transaction, and bus errors -/

theorem exec_stop (s : State) : exec .stop s = .next s.endTransaction := rfl

theorem exec_errBus (s : State) : exec .errBus s = .next (s.takeError true) := rfl

theorem exec_abort (s : State) : exec .abort s = .next (s.takeError true) := rfl

/-- Settles O8: `exec_stop` shows every field. -/
theorem stopReturnsToWaiting : Obligations.StopReturnsToWaiting := by
  intro s
  exact ⟨rfl, _, exec_stop s, rfl, rfl, rfl, ⟨rfl, rfl, rfl⟩, exec_schedule _ _ _ (exec_stop s), rfl, rfl, rfl, rfl⟩

/-- Settles O34: `exec_errBus` shows every field. -/
theorem busErrorDropsAndRearms : Obligations.BusErrorDropsAndRearms := by
  intro s
  exact ⟨rfl, _, exec_errBus s, rfl, rfl, rfl, ⟨rfl, rfl, rfl⟩, exec_schedule _ _ _ (exec_errBus s), rfl, rfl, rfl, rfl⟩

/-- Settles O35: `exec_abort` shows every field. -/
theorem abortDropsAndRearms : Obligations.AbortDropsAndRearms := by
  intro s
  exact ⟨rfl, _, exec_abort s, rfl, rfl, rfl, ⟨rfl, rfl, rfl⟩, exec_schedule _ _ _ (exec_abort s), rfl, rfl, rfl, rfl⟩

/-! ### Received bytes -/

/-- Settles O9: the byte is selected as dropped, and dropping it answers the same state. -/
theorem receivedByteIsDropped : Obligations.ReceivedByteIsDropped := by
  intro b s
  exact ⟨select_rxbyte_drop s.ctx b, rfl⟩

/-- A data byte's step, whatever it is dispatched to: the tail of R83, one position on. -/
theorem exec_rxbyte_getData (s : State) (b : Byte) (c : Ctx) (hc : c.st = .getData) (hpos : s.pos.toNat ≤ 256) :
    ∃ t, exec (select c (.rxbyte b)) s = .next t ∧ t.pos.toNat = s.pos.toNat + 1 ∧ t.pending = s.pending ∧
      (if 32 < s.pos.toNat + 1 then t.st = .dropData ∧ t.out = s.out else t.st = s.st ∧ t.out = some .requestRx) := by
  obtain ⟨u, hu, hupos, hust, huout, hupend, -⟩ := exec_dataOp c b s
  have hnext : (s.pos + 1).toNat = s.pos.toNat + 1 := by bv_omega
  obtain ⟨htpos, htail⟩ := State.advance_tailDone hupos hust huout
  refine ⟨u.advance, by rw [select_rxbyte_getData c b hc, hu], by rw [htpos, hnext], by rw [State.advance_pending, hupend],
    ?_⟩
  rwa [hnext] at htail

/-- Settles O5: a step takes the byte, and `exec_rxbyte_getData` does the rest. -/
theorem dataByteTailAdvancesThenDrops : Obligations.DataByteTailAdvancesThenDrops := by
  intro s b x rest hp hm hst hpos
  rw [step_pending s _ rest hp hm]
  obtain ⟨t, ht, htpos, htpend, htail⟩ := exec_rxbyte_getData
    { s with inputs := x, out := none, pending := rest } b s.ctx hst (hpos.trans (by decide))
  refine ⟨t, ht, htpos, htpend, ?_⟩
  rwa [← hst]

/-! ### The next-state table -/

/-- A commit keeps the protocol state, whether it runs or not. -/
theorem exec_flashCommit_st (d : FlashDraws) (s : State) : ∃ t, exec (.flashCommit d) s = .next t ∧ t.st = s.st := by
  obtain ⟨-, -, h⟩ | ⟨-, h⟩ := execFlashCommit_cases d s
  · exact ⟨_, h, rfl⟩
  · exact ⟨_, h, rfl⟩

/-- Settles O10: one row of the table after another; a byte received in `GET_DATA` is `exec_rxbyte_getData`. -/
theorem nextStateTable : Obligations.NextStateTable := by
  intro s a rest hp hm hl hpos
  rw [step_pending s a rest hp hm]
  obtain ⟨e, x⟩ := a
  cases e
  case rxbyte b =>
    have hphase : s.st = .getData ∨ s.st = .getAddr ∨ s.st = .waiting ∨ s.st = .sendData ∨ s.st = .dropData := by
      cases s.st <;> decide
    obtain hst | hst | hst := hphase
    · obtain ⟨t, ht, -, -, htail⟩ := exec_rxbyte_getData
        { s with inputs := x, out := none, pending := rest } b s.ctx hst hpos
      refine ⟨t, ht, ?_⟩
      simp only [State.nextPhase, hst] at htail ⊢
      split_ifs at htail ⊢ with hdrop hstay
      · omega
      · exact htail.1
      · exact htail.1
      · omega
    · rw [select_rxbyte_at_getAddr b s hst]
      exact ⟨_, rfl, by simp [State.nextPhase, hst]⟩
    · rw [select_rxbyte_drop s.ctx b hst]
      refine ⟨_, rfl, ?_⟩
      obtain h | h | h := hst <;> simp only [State.nextPhase, h]
  case txbyte =>
    by_cases hst : s.st = .sendData
    · rw [select_txbyte_sendData s hst]
      exact ⟨_, rfl, rfl⟩
    · rw [select_txbyte_elsewhere s hst]
      exact ⟨_, rfl, rfl⟩
  case addrW => exact ⟨_, exec_addrW_of_listen _ hl, rfl⟩
  case addrR => exact ⟨_, exec_addrR_of_listen _ hl, rfl⟩
  case flashCommit d => exact exec_flashCommit_st d _
  case reset => exact ⟨_, rfl, State.resetSequence_st _⟩
  case stop | errAf | errBus | abort | capture1 | capture2 | capture3 | adc => exact ⟨_, rfl, rfl⟩

end Sys2Proof.Machine
end

section
/-! SUPPORT. What a step does with its arrival (spec/00_scope.md R2, R6; spec/60_exceptions.md R157; log 1, 10, 14): it
waits under the mask, else the operation that its record decodes to runs; with none listed the free one, or the commit that
is due. -/

namespace Sys2Proof.Machine

/-- Under the mask a listed arrival other than RESET stays first in line, and nothing else changes. -/
theorem step_masked (s : State) (a : Arrival) (rest : List Arrival) (hp : s.pending = a :: rest) (hm : s.irqMask = true)
    (ha : a.event ≠ .reset) : step s = .next { s with out := none } := by
  have hn : s.nextArrival = a := s.nextArrival_listed a rest hp
  obtain ⟨-, -, h⟩ | ⟨hrun, -⟩ := step_cases s
  · rw [h, hn, s.hold_listed a rest hp]
  · rw [hm, hn] at hrun
    exact absurd (hrun.resolve_left (by decide)) ha

/-- Settles O36: by `step_masked`. -/
theorem maskedArrivalWaits : Obligations.MaskedArrivalWaits := by
  intro s a rest hp hm ha
  exact step_masked s a rest hp hm ha

/-- A listed arrival that the mask does not hold is taken, and its operation runs. -/
theorem step_listed (s : State) (a : Arrival) (rest : List Arrival) (hp : s.pending = a :: rest)
    (hrun : s.irqMask = false ∨ a.event = .reset) :
    step s = exec (select s.ctx a.event) { s with inputs := a.inputs, out := none, pending := rest } := by
  have hn : s.nextArrival = a := s.nextArrival_listed a rest hp
  obtain ⟨hm, ha, -⟩ | ⟨-, h⟩ := step_cases s
  · rw [hm, ← hn] at hrun
    exact absurd (hrun.resolve_left (by decide)) ha
  · rw [h, hn, s.take_listed a a rest hp]

/-- The decoder reads from an event's record the operation selected for the event. -/
theorem decode_encodeEvent (c : Ctx) (e : Event) : decode (encodeEvent c e) = .ok (select c e, []) :=
  (decode_eq_ok_iff _ _ _).2 ⟨c, e, (List.append_nil _).symm, rfl⟩

/-- Settles O55: by `step_listed`, and `decode_encodeEvent` names the operation. -/
theorem stepRunsTheDecodedOperation : Obligations.StepRunsTheDecodedOperation := by
  intro s a rest i hp hrun hdec
  rw [decode_encodeEvent] at hdec
  injection hdec with hdec
  injection hdec with hi
  rw [step_listed s a rest hp hrun, hi]

/-- Settles O56: by `step_free`, with or without a commit that is due. -/
theorem stepTakesTheFreeArrival : Obligations.StepTakesTheFreeArrival := by
  intro s hp hm
  refine ⟨fun hnot => ?_, fun hs hz => ?_⟩
  · have hdue : ¬ s.commitDue = true := by
      rw [s.commitDue_iff]
      rintro ⟨hs, -, hz⟩
      exact hnot.elim hs (fun h => h hz)
    rw [step_free s hp hm, State.freeArrival, if_neg hdue, if_neg hdue]
  · have hdue : s.commitDue = true := s.commitDue_iff.2 ⟨hs, hm, hz⟩
    rw [step_free s hp hm, State.freeArrival, if_pos hdue, if_pos hdue]
    rfl

end Sys2Proof.Machine
end

section
/-! SUPPORT. Register writes (spec/41_register_writes.md R100 to R108): which byte each operation is, what it stores, and
that nothing else of the host reaches a live byte (spec/60_exceptions.md R162). -/

namespace Sys2Proof.Machine

/-! ### Page selection -/

/-- Settles O12: `readLive_selectPage`, with the effective selector of `selEff_eq`. -/
theorem selectPageRefreshesPage : Obligations.SelectPageRefreshesPage := by
  intro b s
  refine ⟨select_rxbyte_at_selector b s, _, exec_selpage b s, by rw [State.selectPage_cur, selEff_eq], fun q j => ?_,
    s.selectPage_tailDone b, s.selectPage_dataFrame b⟩
  rw [State.selectPage_cur, State.readLive_selectPage]

/-- Settles O13: `selectPage_tx`, and `step_masked` for the states that no run reaches. -/
theorem snapshotIsTheLivePage : Obligations.SnapshotIsTheLivePage := by
  refine ⟨fun b s => ⟨_, exec_selpage b s, fun i => ?_, s.selectPage_irqMask b⟩, fun s a rest hp hm ha => ?_⟩
  · rw [State.selectPage_tx, State.selectPage_cur]
  · exact ⟨_, step_masked s a rest hp hm ha, ⟨rfl, rfl, rfl⟩, ⟨rfl, rfl, rfl, rfl, rfl, rfl⟩⟩

/-- Settles O14: a page selection depends on its byte through the effective selector only. -/
theorem selectorsAboveThreeActAsZero : Obligations.SelectorsAboveThreeActAsZero := by
  intro b s hb
  have hsel : selEff b = selEff 0 := (selEff_of_gt b hb).trans rfl
  rw [exec_selpage, exec_selpage, State.selectPage, State.selectPage, hsel]

/-- Settles O15: both snapshots are the live page by `selectPage_tx`, and by `readLive_selectPage` the second refresh
changes it only where it samples other inputs. -/
theorem reselectingRepeatsTheSnapshot : Obligations.ReselectingRepeatsTheSnapshot := by
  intro b x pos s t ht
  injection (exec_selpage b s).symm.trans ht with ht
  subst ht
  refine ⟨_, exec_selpage b _, by simp, fun i hi => ?_⟩
  have hread : ({ s.selectPage b with inputs := x, pos := pos } : State).readLive (selEff b) i =
      (s.selectPage b).readLive (selEff b) i := rfl
  rw [State.selectPage_cur] at hi
  rw [State.selectPage_tx, State.selectPage_tx, State.readLive_selectPage, hread, State.readLive_selectPage]
  obtain hi | hi | hi | hi := hi
  · simp only [show ¬ i.val < 4 by omega, show ¬ i.val < 2 by omega, and_false, if_false]
  · simp [hi]
  · simp [hi]
  · subst hi
    simp only [true_and]
    split_ifs <;> rfl

/-! ### Stored bytes -/

/-- A context selects for an event exactly the operations of that event that it admits. -/
theorem select_eq_iff (c : Ctx) (i : Instr) : select c i.event = i ↔ i.wf c = true :=
  ⟨fun h => h ▸ select_wf c i.event, select_event_of_wf c i⟩

/-- Settles O16: row 6's positions are `freqPosition_val`. -/
theorem frequencyByteIsStored : Obligations.FrequencyByteIsStored := by
  intro a b s
  refine ⟨fun hst hcur hpos => (select_eq_iff s.ctx (.stFreq a b)).2 ?_, _, rfl,
    s.readLive_writeLive_advance 0 _ b _ (freqPosition_val a), (s.writeLive_onlyLive 0 _ b).advance⟩
  have ha := a.isLt
  exact (stFreq_wf_iff _ a b).2 ⟨hst, hcur, (s.ctx_pos_toNat (by omega)).trans hpos⟩

/-- Settles O17: one case for each of rows 7, 8 and 9, whose positions are `coefPosition_val`, `tempPosition_val` and
`rmsePosition_val`. -/
theorem calibrationByteIsStored : Obligations.CalibrationByteIsStored := by
  intro b s i n hi
  have hctx : s.pos.toNat = n → n ≤ 255 → s.ctx.pos.toNat = n := fun h hn => (s.ctx_pos_toNat (by omega)).trans h
  obtain ⟨a, rfl, rfl⟩ | ⟨a, rfl, rfl⟩ | ⟨rfl, rfl⟩ := hi
  · refine ⟨fun hst hcur hpos => (select_eq_iff s.ctx (.stTcxoCoef a b)).2 ?_, _, rfl,
      s.readLive_writeLive_advance 2 _ b _ (coefPosition_val a), (s.writeLive_onlyLive 2 _ b).advance⟩
    have ha := a.isLt
    exact (stTcxoCoef_wf_iff _ a b).2 ⟨hst, hcur, hctx hpos (by omega)⟩
  · refine ⟨fun hst hcur hpos => (select_eq_iff s.ctx (.stTcxoTemp a b)).2 ?_, _, rfl,
      s.readLive_writeLive_advance 2 _ b _ (tempPosition_val a), (s.writeLive_onlyLive 2 _ b).advance⟩
    have ha := a.isLt
    exact (stTcxoTemp_wf_iff _ a b).2 ⟨hst, hcur, hctx hpos (by omega)⟩
  · refine ⟨fun hst hcur hpos => (select_eq_iff s.ctx (.stTcxoRmse b)).2 ?_, _, rfl,
      s.readLive_writeLive_advance 2 _ b _ rmsePosition_val, (s.writeLive_onlyLive 2 _ b).advance⟩
    exact (stTcxoRmse_wf_iff _ b).2 ⟨hst, hcur, hctx hpos (by omega)⟩

/-- Settles O18: `readLive_writeSave`, with the tail of a data byte. -/
theorem triggerByteArmsCommit : Obligations.TriggerByteArmsCommit := by
  intro b s
  refine ⟨fun hst hcur hpos => (select_eq_iff s.ctx (.save b)).2 ?_, _, rfl, fun q j => ?_,
    (s.writeSave_onlyLive b).advance⟩
  · exact (save_wf_iff _ b).2 ⟨hst, hcur, (s.ctx_pos_toNat (by omega)).trans hpos⟩
  · simp only [State.advance_readLive, State.readLive_writeSave, Fin.ext_iff, saveOffset_val]
    exact if_congr (by tauto) rfl rfl

/-- Settles O19: the operation is the ignored byte's exactly where its context admits that operation. -/
theorem ignoredByteOnlyMovesCursor : Obligations.IgnoredByteOnlyMovesCursor := by
  intro b s
  obtain ⟨htx, hcur, hmask, htail, hframe⟩ := (State.OnlyLive.refl s).advance
  refine ⟨fun hst hpos => ?_, _, rfl, ⟨s.advance_live, htx, s.advance_flash⟩, hcur, hmask, htail, hframe⟩
  rw [show Event.rxbyte b = (Instr.ign b).event from rfl, select_eq_iff, ign_wf_iff, s.ctx_pos_toNat hpos]
  exact ⟨fun h => h.2, fun h => ⟨hst, h⟩⟩

/-! ### What the host can store -/

/-- Every operation but a commit keeps the flash record. -/
theorem exec_keeps_flash (i : Instr) (s t : State) (hi : ∀ d, i ≠ .flashCommit d) (h : exec i s = .next t) :
    t.flash = s.flash := by
  cases i
  case flashCommit d => exact absurd rfl (hi d)
  case addrW =>
    obtain ⟨-, e⟩ | ⟨-, e⟩ := execAddrW_cases s <;> (injection e.symm.trans h with h; subst h; rfl)
  case addrR =>
    obtain ⟨-, e⟩ | ⟨-, e⟩ := execAddrR_cases s <;> (injection e.symm.trans h with h; subst h; rfl)
  case rxdrop => injection h with h; subst h; rfl
  all_goals (injection h with h; subst h; simp [State.takeError_eq])

/-- What a bus event may store comes from a data byte: `src_freq` of page 1 or 0..19 of page 3 at the cursor, or a byte that
a page selection refreshes. -/
theorem bus_mayStore (c : Ctx) (i : Instr) (hwf : i.wf c = true) (hbus : fromBus i.event = true) (q : BitVec 2) (j : Fin 32)
    (v : Byte) (h : MayStore i q j v) :
    ∃ b, i.event = .rxbyte b ∧ c.st = .getData ∧
      ((q = 0 ∧ (j = 26 ∨ j = 27) ∧ c.cur = 0 ∧ c.pos.toNat = j.val ∧ v = b) ∨
        (q = 2 ∧ j.val ≤ 19 ∧ c.cur = 2 ∧ c.pos.toNat = j.val ∧ v = b) ∨
        (c.pos.toNat = 31 ∧ (q = 0 ∨ q = 3) ∧ j.val < 4 ∧ q = selEff b)) := by
  cases i
  case reset | capture1 | capture2 | capture3 | adc | flashCommit => cases hbus
  case addrW | addrR | setpos | ign | rxdrop | txbyte | txfill | stop | errAf | errBus | abort => exact h.elim
  case selpage b =>
    obtain ⟨hst, hpos⟩ := (selpage_wf_iff c b).1 hwf
    obtain ⟨hq, hpage, hj⟩ := h
    exact ⟨b, rfl, hst, .inr (.inr ⟨hpos, hpage, hj, hq⟩)⟩
  case stFreq a b =>
    obtain ⟨hst, hcur, hpos⟩ := (stFreq_wf_iff c a b).1 hwf
    obtain ⟨hq, hj, hv⟩ := h
    have ha := a.isLt
    have h26 : j = 26 ∨ j = 27 := by
      rw [Fin.ext_iff, Fin.ext_iff]
      show j.val = 26 ∨ j.val = 27
      omega
    exact ⟨b, rfl, hst, .inl ⟨hq, h26, hcur, by omega, hv⟩⟩
  case stTcxoCoef a b =>
    obtain ⟨hst, hcur, hpos⟩ := (stTcxoCoef_wf_iff c a b).1 hwf
    obtain ⟨hq, hj, hv⟩ := h
    exact ⟨b, rfl, hst, .inr (.inl ⟨hq, by omega, hcur, by omega, hv⟩)⟩
  case stTcxoTemp a b =>
    obtain ⟨hst, hcur, hpos⟩ := (stTcxoTemp_wf_iff c a b).1 hwf
    obtain ⟨hq, hj, hv⟩ := h
    exact ⟨b, rfl, hst, .inr (.inl ⟨hq, by omega, hcur, by omega, hv⟩)⟩
  case stTcxoRmse b =>
    obtain ⟨hst, hcur, hpos⟩ := (stTcxoRmse_wf_iff c b).1 hwf
    obtain ⟨hq, hj, hv⟩ := h
    exact ⟨b, rfl, hst, .inr (.inl ⟨hq, by omega, hcur, by omega, hv⟩)⟩
  case save b =>
    obtain ⟨hst, hcur, hpos⟩ := (save_wf_iff c b).1 hwf
    obtain ⟨hq, hj, hv, -⟩ := h
    exact ⟨b, rfl, hst, .inr (.inl ⟨hq, by omega, hcur, by omega, hv⟩)⟩

/-- Settles O20: a changed byte is one that the operation may store (`exec_readLive_cases`), and `bus_mayStore` says which
the selected operation of a bus event may. -/
theorem hostStoresOnlyItsFields : Obligations.HostStoresOnlyItsFields := by
  intro s a rest hp hm hbus hpos
  rw [step_pending s a rest hp hm]
  obtain ⟨t, ht⟩ := exec_next (select s.ctx a.event) { s with inputs := a.inputs, out := none, pending := rest }
  have hev := select_event s.ctx a.event
  have hflash := exec_keeps_flash _ _ t (fun d hd => by rw [← hev, hd] at hbus; cases hbus) ht
  refine ⟨t, ht, hflash, fun q j hne => ?_⟩
  have hstore := (exec_readLive_cases _ _ t ht q j).resolve_left hne
  obtain ⟨b, hb, hst, hcases⟩ := bus_mayStore s.ctx _ (select_wf s.ctx a.event) (by rw [hev, hbus]) q j _ hstore
  rw [s.ctx_pos_toNat (hpos hst), selEff_eq] at hcases
  exact ⟨b, hev.symm.trans hb, hst, hcases⟩

end Sys2Proof.Machine
end

section
/-! SUPPORT. Capture and ADC (spec/42_capture_and_sampling.md R121 to R126): their live bytes one by one, and their
independence of the protocol state (R48). -/

namespace Sys2Proof.Machine

/-! ### The states they leave -/

theorem exec_capture1 (v : Half) (s : State) :
    exec (.capture1 v) s = .next ((s.captureCommon 0 v).writeF32 0 4 s.inputs.tick32 (by decide)) := rfl
theorem exec_capture2 (v : Half) (s : State) :
    exec (.capture2 v) s = .next ((s.captureCommon 1 v).bumpRollover 28) := rfl
theorem exec_capture3 (v : Half) (s : State) :
    exec (.capture3 v) s = .next ((s.captureCommon 2 v).bumpRollover 29) := rfl
theorem exec_adc (c v x : Half) (s : State) :
    exec (.adc c v x) s = .next ((((s.writeF32 1 0 s.inputs.tick32 (by decide)).writeF16 1 4 c (by decide)).writeF16 1 6 v
      (by decide)).writeF16 1 8 x (by decide)) := rfl

/-- What a capture or an ADC sample leaves alone: it stores live bytes only. -/
theorem State.OnlyLive.deviceFrame {s t : State} (h : s.OnlyLive t) :
    t.tx = s.tx ∧ t.flash = s.flash ∧ t.out = s.out ∧ s.SameProtocol t ∧ s.SameSchedule t :=
  ⟨h.tx, h.flash, h.out, h.sameProtocol, h.sameSchedule⟩

/-- Settles O21: the entry by `readLive_captureCommon`, the tick by `readLive_writeF32`. -/
theorem captureOneWritesEntryAndTick : Obligations.CaptureOneWritesEntryAndTick := by
  intro v s
  refine ⟨rfl, _, exec_capture1 v s, fun q j => ?_, State.OnlyLive.deviceFrame rfl⟩
  simp only [State.readLive_writeF32, State.readLive_captureCommon, Fin.val_zero]

/-- A rollover counter after a capture that does not reach it: one higher modulo 2^8 (R125). -/
theorem State.captureCommon_bump_toNat (s : State) (c : Fin 3) (v : Half) (i : Fin 32) (hi : 26 ≤ i.val) :
    (((s.captureCommon c v).bumpRollover i).readLive 0 i).toNat = ((s.readLive 0 i).toNat + 1) % 256 := by
  have hc := c.isLt
  rw [State.readLive_bumpRollover, if_pos ⟨rfl, rfl⟩, State.readLive_captureCommon, if_neg (by omega), if_neg (by omega),
    if_neg (by omega), BitVec.toNat_add]
  rfl

/-- Settles O22: the entry by `readLive_captureCommon`, the count by `captureCommon_bump_toNat`. -/
theorem captureTwoWritesEntryAndCounts : Obligations.CaptureTwoWritesEntryAndCounts := by
  intro v s
  refine ⟨rfl, _, exec_capture2 v s, s.captureCommon_bump_toNat 1 v 28 (by decide), fun q j hj => ?_,
    State.OnlyLive.deviceFrame rfl⟩
  rw [State.readLive_bumpRollover, if_neg hj, State.readLive_captureCommon]
  rfl

/-- Settles O23: the entry by `readLive_captureCommon`, the count by `captureCommon_bump_toNat`. -/
theorem captureThreeWritesEntryAndCounts : Obligations.CaptureThreeWritesEntryAndCounts := by
  intro v s
  refine ⟨rfl, _, exec_capture3 v s, s.captureCommon_bump_toNat 2 v 29 (by decide), fun q j hj => ?_,
    State.OnlyLive.deviceFrame rfl⟩
  rw [State.readLive_bumpRollover, if_neg hj, State.readLive_captureCommon]
  rfl

/-- Settles O24: the tick by `readLive_writeF32`, the codes by `readLive_writeF16`. -/
theorem adcSampleFillsPageTwo : Obligations.AdcSampleFillsPageTwo := by
  intro c v x s
  refine ⟨rfl, _, exec_adc c v x s, fun q j => ?_, State.OnlyLive.deviceFrame rfl⟩
  simp only [State.readLive_writeF16, State.readLive_writeF32, Nat.zero_le, true_and, Nat.zero_add, Nat.sub_zero]
  split_ifs <;> first | rfl | omega

/-- Settles O25: each operation's stores commute with putting other protocol fields in the state. -/
theorem deviceEventsIgnoreTheProtocol : Obligations.DeviceEventsIgnoreTheProtocol := by
  intro i s cur st pos txi hi
  have hin : (s.withProtocol cur st pos txi).inputs = s.inputs := rfl
  obtain ⟨v, rfl | rfl | rfl⟩ | ⟨c, v, x, rfl⟩ | ⟨d, rfl⟩ := hi
  · refine ⟨_, exec_capture1 v s, rfl, rfl, rfl, rfl, ?_⟩
    rw [exec_capture1, hin, State.captureCommon_withProtocol, State.writeF32_withProtocol]
  · refine ⟨_, exec_capture2 v s, rfl, rfl, rfl, rfl, ?_⟩
    rw [exec_capture2, State.captureCommon_withProtocol, State.bumpRollover_withProtocol]
  · refine ⟨_, exec_capture3 v s, rfl, rfl, rfl, rfl, ?_⟩
    rw [exec_capture3, State.captureCommon_withProtocol, State.bumpRollover_withProtocol]
  · refine ⟨_, exec_adc c v x s, rfl, rfl, rfl, rfl, ?_⟩
    simp only [exec_adc, hin, State.writeF32_withProtocol, State.writeF16_withProtocol]
  · by_cases hc : s.commitEnabled = true
    · exact ⟨_, if_pos hc, rfl, rfl, rfl, rfl, if_pos hc⟩
    · exact ⟨_, if_neg hc, rfl, rfl, rfl, rfl, if_neg hc⟩

end Sys2Proof.Machine
end

section
/-! SUPPORT. The flash store (spec/43_flash_store.md R137, R138) and who writes its record, status and trigger
(spec/10_state.md R23, R25). -/

namespace Sys2Proof.Machine

/-! ### A commit that runs, and one that does not -/

/-- The state that a commit leaves where it is enabled. -/
def State.committed (s : State) (d : FlashDraws) : State :=
  { s with flash := (s.commitFlash d).1 }.recordCommit (s.commitFlash d).2

theorem exec_flashCommit_of_enabled (d : FlashDraws) (s : State) (hs : s.saveByte ≠ 0) (hm : s.irqMask = false) :
    exec (.flashCommit d) s = .next (s.committed d) := if_pos ((commitEnabled_iff s).2 ⟨hs, hm⟩)

/-- Settles O26: a commit that is not enabled tests so first. -/
theorem disabledCommitDoesNothing : Obligations.DisabledCommitDoesNothing := by
  intro d s hoff
  refine if_neg fun hc => ?_
  obtain ⟨hs, hm⟩ := (commitEnabled_iff s).1 hc
  exact hoff.elim hs (fun h => absurd (h.symm.trans hm) (by decide))

/-- The live bytes after a commit: the trigger consumed, the status recorded, every other byte as before. -/
theorem State.readLive_committed (s : State) (d : FlashDraws) (q : BitVec 2) (j : Fin 32) :
    (s.committed d).readLive q j =
      if q = 2 ∧ j.val = 19 then 0 else if q = 2 ∧ j.val = 20 then (s.commitFlash d).2 else s.readLive q j := by
  simp only [State.committed, State.readLive_recordCommit, Fin.ext_iff, saveOffset_val, statusOffset_val]
  rfl

theorem State.committed_flash (s : State) (d : FlashDraws) : (s.committed d).flash = (s.commitFlash d).1 := rfl

/-- What a commit leaves alone besides the flash record and the live pages. -/
theorem State.committed_frame (s : State) (d : FlashDraws) :
    (s.committed d).tx = s.tx ∧ (s.committed d).out = s.out ∧ s.SameProtocol (s.committed d) ∧
      s.SameSchedule (s.committed d) :=
  ⟨rfl, rfl, ⟨rfl, rfl, rfl, rfl, rfl, rfl⟩, ⟨rfl, rfl, rfl, rfl⟩⟩

/-- A commit whose erase fails keeps the record and reports the erase failure. -/
theorem State.commitFlash_of_eraseFail (s : State) (d : FlashDraws) (he : d.eraseOk = false) :
    s.commitFlash d = (s.flash, stEraseFail) := if_neg (by rw [he]; decide)

/-- Settles O27: by `commitFlash_of_eraseFail`. -/
theorem commitEraseFailureKeepsRecord : Obligations.CommitEraseFailureKeepsRecord := by
  intro d s hs hm he
  refine ⟨_, exec_flashCommit_of_enabled d s hs hm, ?_, fun q j => ?_, s.committed_frame d⟩
  · rw [State.committed_flash, s.commitFlash_of_eraseFail d he]
  · rw [State.readLive_committed, s.commitFlash_of_eraseFail d he]
    rfl

/-- The status of a commit whose erase succeeded: all units programmed, or not. -/
theorem State.commitFlash_status_of_erased (s : State) (d : FlashDraws) (he : d.eraseOk = true) :
    (s.commitFlash d).2 = if ∀ k : Fin 5, d.progOk[k] = true then 1 else 3 := by
  rw [State.commitFlash_status, if_neg (by rw [he]; decide)]
  rfl

/-- Every unit up to `k` succeeded exactly when every one before `k` did and `k` itself did. -/
theorem forall_le_iff_forall_lt_and (P : Fin 5 → Prop) (k : Fin 5) :
    (∀ j : Fin 5, j.val ≤ k.val → P j) ↔ (∀ j : Fin 5, j.val < k.val → P j) ∧ P k := by
  constructor
  · exact fun h => ⟨fun j hj => h j hj.le, h k le_rfl⟩
  · rintro ⟨hlt, hk⟩ j hj
    obtain hj | hj := Nat.lt_or_eq_of_le hj
    · exact hlt j hj
    · rwa [Fin.ext hj]

/-- Settles O28: the record by `lookup_commitFlash`, the status by `commitFlash_status_of_erased`. -/
theorem commitWritesRecordUnitByUnit : Obligations.CommitWritesRecordUnitByUnit := by
  intro d s hs hm he
  refine ⟨_, exec_flashCommit_of_enabled d s hs hm, fun k x i hi => ?_, fun q j => ?_, s.committed_frame d⟩
  · have hx := x.isLt
    have hdiv : k.val = i.val / 4 := by omega
    have hmod : i.val % 4 = x.val := by omega
    have hlook : (s.committed d).readFlash i = Memory.lookup (s.commitFlash d).1 i.val := rfl
    rw [hlook, s.lookup_commitFlash d he i k hdiv, hmod]
    simp only [forall_le_iff_forall_lt_and (fun j => d.progOk[j] = true)]
    by_cases hlt : ∀ j : Fin 5, j.val < k.val → d.progOk[j] = true
    · by_cases hk : d.progOk[k] = true
      · rw [if_pos hlt, if_pos hk, if_pos ⟨hlt, hk⟩]
        rfl
      · rw [if_pos hlt, if_neg hk, if_neg (fun h => hk h.2), if_pos hlt]
    · rw [if_neg hlt, if_neg (fun h => hlt h.1), if_neg hlt]
      rfl
  · rw [State.readLive_committed, s.commitFlash_status_of_erased d he]

/-! ### Who writes the record, the status and the trigger -/

/-- Settles O29: by `exec_keeps_flash`. -/
theorem flashWrittenOnlyByCommit : Obligations.FlashWrittenOnlyByCommit := by
  intro i s t h hne
  by_contra hi
  exact hne (exec_keeps_flash i s t (fun d hd => hi ⟨d, hd⟩) h)

/-- Only RESET and FLASH.COMMIT may store byte 20 of page 3. -/
theorem mayStore_status (i : Instr) (v : Byte) (h : MayStore i 2 statusOffset v) :
    i = .reset ∨ ∃ d, i = .flashCommit d := by
  cases i
  case reset => exact .inl rfl
  case flashCommit d => exact .inr ⟨d, rfl⟩
  case stTcxoCoef a b | stTcxoTemp a b =>
    have ha := a.isLt
    obtain ⟨-, hj, -⟩ := h
    rw [statusOffset_val] at hj
    omega
  all_goals simp [MayStore, statusOffset] at h

/-- Settles O30: by `exec_readLive_cases` and `mayStore_status`. -/
theorem saveStatusWrittenOnlyByCommit : Obligations.SaveStatusWrittenOnlyByCommit := by
  intro i s t h hne
  exact mayStore_status i _ ((exec_readLive_cases i s t h 2 statusOffset).resolve_left hne)

/-- Only RESET, SAVE of a non-zero byte and FLASH.COMMIT may store byte 19 of page 3. -/
theorem mayStore_trigger (i : Instr) (v : Byte) (h : MayStore i 2 saveOffset v) :
    i = .reset ∨ (v ≠ 0 ∧ i = .save v) ∨ (v = 0 ∧ ∃ d, i = .flashCommit d) := by
  cases i
  case stTcxoCoef a b | stTcxoTemp a b =>
    have ha := a.isLt
    obtain ⟨-, hj, -⟩ := h
    rw [saveOffset_val] at hj
    omega
  case reset => exact .inl rfl
  case save b =>
    obtain ⟨-, -, rfl, hb⟩ := h
    exact .inr (.inl ⟨hb, rfl⟩)
  case flashCommit d =>
    obtain ⟨-, ⟨-, hv⟩ | ⟨hj, -⟩⟩ := h
    · exact .inr (.inr ⟨hv, d, rfl⟩)
    · cases hj
  all_goals simp [MayStore, saveOffset] at h

/-- RESET leaves the trigger and the status clear (R180). -/
theorem State.resetSequence_save (s : State) : s.resetSequence.saveByte = 0 ∧ s.resetSequence.saveStatus = 0 := by
  constructor
  · exact s.readLive_resetSequence 2 saveOffset
  · exact s.readLive_resetSequence 2 statusOffset

/-- Settles O31: by `exec_readLive_cases` and `mayStore_trigger`; RESET leaves a zero. -/
theorem triggerSetByHostClearedByCommit : Obligations.TriggerSetByHostClearedByCommit := by
  intro i s t h hne
  obtain rfl | hsave | ⟨hzero, hi⟩ := mayStore_trigger i _ ((exec_readLive_cases i s t h 2 saveOffset).resolve_left hne)
  · injection h with h
    exact .inr ⟨h ▸ s.resetSequence_save.1, .inl rfl⟩
  · exact .inl hsave
  · exact .inr ⟨hzero, .inr hi⟩

/-- Every byte of an erased unit's content is the erased byte. -/
theorem beByte_erased (x : Nat) (hx : x < 4) : beByte 0xFFFFFFFF x = flashErasedByte := by
  interval_cases x <;> rfl

/-- Settles O32: the record by `lookup_commitFlash`, with the failed unit's bytes those of an erased one; page 3 by
`readLive_resetSequence`. -/
theorem powerLossDuringCommitIsSilent : Obligations.PowerLossDuringCommitIsSilent := by
  intro d k s hs hm he hok hfail hjunk
  refine ⟨_, _, exec_flashCommit_of_enabled d s hs hm, rfl, fun i => ?_, fun j => ?_, (State.resetSequence_save _).2,
    (State.resetSequence_save _).1⟩
  · have hi := i.isLt
    have hlook : (s.committed d).resetSequence.readFlash i = Memory.lookup (s.commitFlash d).1 i.val := by
      rw [State.readFlash, State.resetSequence_flash, State.committed_flash]
    obtain ⟨u, hu⟩ : ∃ u : Fin 5, u.val = i.val / 4 := ⟨⟨i.val / 4, by omega⟩, rfl⟩
    rw [hlook, s.lookup_commitFlash d he i u hu]
    obtain hlt | heq | hgt := Nat.lt_trichotomy u.val k.val
    · rw [if_pos (fun j hj => hok j (hj.trans hlt)), if_pos (hok u hlt), if_pos (by omega)]
    · obtain rfl : u = k := Fin.ext heq
      rw [if_pos hok, if_neg (by rw [hfail]; decide), hjunk, beByte_erased _ (by omega), if_neg (by omega)]
      rfl
    · rw [if_neg (fun h => by rw [h k hgt] at hfail; cases hfail), if_neg (by omega)]
      rfl
  · rw [State.readLive_resetSequence, State.readFlash, State.resetSequence_flash]
    simp [j.isLt]

end Sys2Proof.Machine
end

section
/-! SUPPORT. Reset (spec/70_reset_and_hazards.md R180; spec/10_state.md R29): the reset table from every state, and
`State.reset` as what the sequence leaves on a blank device. -/

namespace Sys2Proof.Machine

theorem exec_reset (s : State) : exec .reset s = .next s.resetSequence := rfl

/-- Settles O38: page by page, `readLive_resetSequence`. -/
theorem resetEstablishesTable : Obligations.ResetEstablishesTable := by
  intro s
  refine ⟨rfl, _, exec_reset s, fun j => ?_, fun c k j hj => ?_, fun j hj => ?_, fun j => ?_, fun j => ?_, fun j => ?_,
    by simp, by simp, by simp, by simp, by simp, by simp, by simp, by simp, exec_schedule _ _ _ (exec_reset s)⟩
  · rw [State.readLive_resetSequence, if_pos rfl]
  · have hk := k.isLt
    rw [State.readLive_resetSequence, if_neg (by decide), if_pos rfl]
    have hchannel : ∀ c : Fin 3, c = 0 ∨ c = 1 ∨ c = 2 := by decide
    obtain rfl | rfl | rfl := hchannel c <;> simp only [Fin.val_zero, Fin.val_one, Fin.val_two] at hj
    · rw [if_pos (by omega), hj, Nat.mul_zero, Nat.add_sub_cancel_left]
    · rw [if_neg (by omega), if_pos (by omega), hj, Nat.add_sub_cancel_left]
    · rw [if_neg (by omega), if_neg (by omega), if_pos (by omega), hj, Nat.add_sub_cancel_left]
  · rw [State.readLive_resetSequence, if_neg (by decide), if_pos rfl, if_neg (by omega), if_neg (by omega),
      if_neg (by omega)]
  · rw [State.readLive_resetSequence, if_neg (by decide), if_neg (by decide), if_pos rfl]
    rfl
  · rw [State.readLive_resetSequence, if_neg (by decide), if_neg (by decide), if_neg (by decide)]
  · rw [State.resetSequence_tx, State.page_getElem]

/-- The live pages of `State.reset` are those that the sequence leaves on a blank record. -/
theorem State.reset_live (s : State) (hf : s.flash = []) (hin : s.inputs = Config.resetInputs) :
    s.resetSequence.live = State.reset.live := by
  apply State.live_ext
  intro q j
  rw [State.readLive_resetSequence, hf, hin]
  have hq : q = 0 ∨ q = 1 ∨ q = 2 ∨ q = 3 := by revert q; decide
  obtain rfl | rfl | rfl | rfl := hq <;> fin_cases j <;> rfl

theorem State.eq_of_fields {s t : State} (hlive : s.live = t.live) (htx : s.tx = t.tx) (hcur : s.cur = t.cur)
    (hst : s.st = t.st) (hpos : s.pos = t.pos) (htxi : s.txi = t.txi) (hlisten : s.listen = t.listen)
    (hmask : s.irqMask = t.irqMask) (hflash : s.flash = t.flash) (hin : s.inputs = t.inputs) (hout : s.out = t.out)
    (hpend : s.pending = t.pending) (hdrawn : s.drawn = t.drawn) (hpat : s.patience = t.patience) : s = t := by
  cases s
  cases t
  simp_all only

/-- The sequence leaves `State.reset` but for the schedule, which it does not write. -/
theorem State.resetSequence_eq_reset (s : State) (hf : s.flash = []) (hin : s.inputs = Config.resetInputs) :
    s.resetSequence = { State.reset with pending := s.pending, drawn := s.drawn, patience := s.patience } := by
  have hlive := s.reset_live hf hin
  have htx : s.resetSequence.tx = State.reset.tx := by
    rw [State.resetSequence_tx, State.page, hlive]
    rfl
  exact State.eq_of_fields hlive htx s.resetSequence_cur s.resetSequence_st s.resetSequence_pos s.resetSequence_txi rfl rfl
    (s.resetSequence_flash.trans hf) (s.resetSequence_inputs.trans hin) rfl s.resetSequence_pending
    s.resetSequence_drawn s.resetSequence_patience

/-- Settles O39: by `resetSequence_eq_reset`. -/
theorem resetStateIsTheSequenceResult : Obligations.ResetStateIsTheSequenceResult := by
  intro s hf hin
  rw [exec_reset, s.resetSequence_eq_reset hf hin]

/-- `State.reset` is a fixed point of the sequence. -/
theorem State.resetSequence_reset : State.reset.resetSequence = State.reset :=
  State.reset.resetSequence_eq_reset rfl rfl

/-- Settles O40: `State.reset` is what the sequence leaves on itself, so it holds the table that every reset leaves. -/
theorem resetStateHoldsTheTable : Obligations.ResetStateHoldsTheTable := by
  obtain ⟨-, t, ht, h0, hcal, h1, h2, h3, -⟩ := resetEstablishesTable State.reset
  rw [exec_reset, State.resetSequence_reset] at ht
  injection ht with ht
  subst ht
  refine ⟨h0, hcal, h1, fun j => ?_, h3, rfl, rfl, rfl, rfl, rfl, rfl, rfl, fun i => rfl⟩
  rw [h2]
  rfl

end Sys2Proof.Machine
end

section
/-! SUPPORT. The invariant (spec/10_state.md R28, with R21, R25, R69): reset establishes it, and every operation that its
context admits keeps it. -/

namespace Sys2Proof.Machine

/-! ### The live bytes that no operation changes -/

/-- The live bytes that only RESET writes: the reserved ones, the selectors and the version. -/
def constantAt (q : BitVec 2) (j : Fin 32) : Prop := reservedAt q j = true ∨ j = 31 ∨ (q = 0 ∧ j = versionOffset)

/-- A reserved byte in plain numbers. -/
theorem reservedAt_iff (q : BitVec 2) (j : Fin 32) :
    reservedAt q j = true ↔ (q = 1 ∧ 16 ≤ j.val ∧ j.val ≤ 30) ∨ (q = 2 ∧ 21 ≤ j.val ∧ j.val ≤ 30) ∨
      (q = 3 ∧ 4 ≤ j.val ∧ j.val ≤ 30) := by
  simp [reservedAt, or_assoc]

/-- Only RESET may store a constant byte. -/
theorem mayStore_constant (i : Instr) (q : BitVec 2) (j : Fin 32) (v : Byte) (hc : constantAt q j)
    (h : MayStore i q j v) : i = .reset := by
  have h30 : (versionOffset : Fin 32).val = 30 := rfl
  have h31 : ((31 : Fin 32)).val = 31 := rfl
  simp only [constantAt, reservedAt_iff, Fin.ext_iff, h30, h31] at hc
  cases i
  case reset => rfl
  case addrW | addrR | setpos | ign | rxdrop | txbyte | txfill | stop | errAf | errBus | abort => exact h.elim
  case stFreq a b | stTcxoCoef a b | stTcxoTemp a b =>
    have ha := a.isLt
    simp only [MayStore] at h
    grind
  all_goals
    simp only [MayStore] at h
    grind

/-- Every operation but RESET keeps the constant bytes. -/
theorem exec_keeps_constant (i : Instr) (s t : State) (hi : i ≠ .reset) (h : exec i s = .next t) (q : BitVec 2)
    (j : Fin 32) (hc : constantAt q j) : t.readLive q j = s.readLive q j := by
  by_contra hne
  exact hi (mayStore_constant i q j _ hc ((exec_readLive_cases i s t h q j).resolve_left hne))

/-- The status stays among its codes. -/
theorem exec_keeps_statusRange (i : Instr) (s t : State) (hs : s.saveStatus.toNat ≤ 3) (h : exec i s = .next t) :
    t.saveStatus.toNat ≤ 3 := by
  obtain hsame | hstore := exec_readLive_cases i s t h 2 statusOffset
  · rwa [State.saveStatus, hsame]
  · obtain rfl | ⟨d, rfl⟩ := mayStore_status i _ hstore
    · injection h with h
      rw [← h, s.resetSequence_save.2]
      decide
    · obtain ⟨-, ⟨hj, -⟩ | ⟨-, hv⟩⟩ := hstore
      · cases hj
      · exact hv

/-! ### The protocol fields -/

/-- The part of the invariant that speaks of the protocol fields. -/
structure State.ProtocolInv (s : State) : Prop where
  unmasked : s.irqMask = false
  armed : s.listen = true
  txiRange : s.txi.toNat ≤ 32
  posRange : s.pos.toNat ≤ 256
  posInData : s.st = .getData → s.pos.toNat ≤ 255

theorem State.ProtocolInv.of_sameProtocol {s t : State} (h : s.ProtocolInv) (hsame : s.SameProtocol t) :
    t.ProtocolInv := by
  obtain ⟨-, hst, hpos, htxi, hlisten, hmask⟩ := hsame
  exact ⟨hmask.trans h.unmasked, hlisten.trans h.armed, htxi ▸ h.txiRange, hpos ▸ h.posRange,
    fun hd => hpos ▸ h.posInData (hst.symm.trans hd)⟩

/-- Another protocol state but `GET_DATA`, listening as before or again. -/
theorem State.ProtocolInv.outside_data {s t : State} (h : s.ProtocolInv) (hst : t.st ≠ .getData) (hpos : t.pos = s.pos)
    (htxi : t.txi.toNat ≤ 32) (hlisten : t.listen = true) (hmask : t.irqMask = s.irqMask) : t.ProtocolInv :=
  ⟨hmask.trans h.unmasked, hlisten, htxi, hpos ▸ h.posRange, fun hd => absurd hd hst⟩

/-- The tail of a data byte (R83): in `GET_DATA` the cursor has room for one more, and it stays there up to 32 only. -/
theorem State.ProtocolInv.advance {s u : State} (h : s.ProtocolInv) (hst : s.st = .getData) (hpos : u.pos = s.pos)
    (htxi : u.txi = s.txi) (hlisten : u.listen = s.listen) (hmask : u.irqMask = false) : u.advance.ProtocolInv := by
  have hroom := h.posInData hst
  have hnext : (u.pos + 1).toNat = s.pos.toNat + 1 := by rw [hpos]; bv_omega
  refine ⟨u.advance_irqMask.trans hmask, (u.advance_listen.trans hlisten).trans h.armed, ?_, ?_, fun hd => ?_⟩
  · rw [State.advance_txi, htxi]
    exact h.txiRange
  · rw [State.advance_pos, hnext]
    omega
  · rw [State.advance_st] at hd
    rw [State.advance_pos]
    split_ifs at hd with hdrop
    omega

/-- Every operation that the context admits keeps the protocol part of the invariant. -/
theorem exec_keeps_protocolInv (i : Instr) (s t : State) (hs : s.ProtocolInv) (hwf : i.wf s.ctx = true)
    (h : exec i s = .next t) : t.ProtocolInv := by
  cases i
  case reset =>
    injection h with h
    subst h
    exact ⟨rfl, rfl, by simp, by simp, by simp⟩
  case addrW =>
    injection (exec_addrW_of_listen s hs.armed).symm.trans h with h
    subst h
    exact hs.outside_data nofun rfl hs.txiRange hs.armed rfl
  case addrR =>
    injection (exec_addrR_of_listen s hs.armed).symm.trans h with h
    subst h
    exact hs.outside_data nofun rfl (Nat.zero_le 32) hs.armed rfl
  case setpos b =>
    injection (exec_setpos b s).symm.trans h with h
    subst h
    have hb : (b.setWidth 9).toNat ≤ 255 := by rw [BitVec.toNat_setWidth_of_le (by decide)]; omega
    exact ⟨hs.unmasked, hs.armed, hs.txiRange, hb.trans (by decide), fun _ => hb⟩
  case txbyte =>
    injection (exec_txbyte s).symm.trans h with h
    subst h
    refine ⟨hs.unmasked, hs.armed, ?_, hs.posRange, hs.posInData⟩
    have := hs.txiRange
    simp only [State.emit_txi]
    split_ifs <;> bv_omega
  case stop | errBus | abort =>
    injection h with h
    subst h
    exact hs.outside_data nofun rfl hs.txiRange rfl rfl
  case errAf =>
    injection h with h
    subst h
    exact hs.outside_data nofun rfl hs.txiRange hs.armed rfl
  case selpage b =>
    simp only [Instr.wf, Bool.and_eq_true, beq_iff_eq] at hwf
    injection h with h
    subst h
    exact hs.advance hwf.1 (by simp) (by simp) (by simp) (by simp)
  case stFreq a b | stTcxoCoef a b | stTcxoTemp a b | stTcxoRmse b | save b | ign b =>
    simp only [Instr.wf, Bool.and_eq_true, beq_iff_eq, and_assoc] at hwf
    injection h with h
    subst h
    exact hs.advance hwf.1 (by simp) (by simp) (by simp) (by simp [hs.unmasked])
  case flashCommit d =>
    obtain ⟨-, -, e⟩ | ⟨-, e⟩ := execFlashCommit_cases d s <;> injection e.symm.trans h with h <;> subst h
    · exact hs.of_sameProtocol ⟨rfl, rfl, rfl, rfl, rfl, rfl⟩
    · exact hs
  case rxdrop | txfill | capture1 | capture2 | capture3 | adc =>
    injection h with h
    subst h
    exact hs.of_sameProtocol ⟨rfl, rfl, rfl, rfl, rfl, rfl⟩

/-! ### The invariant -/

theorem State.Inv.protocolInv {s : State} (h : s.Inv) : s.ProtocolInv :=
  ⟨h.unmasked, h.armed, h.txiRange, h.posRange, h.posInData⟩

/-- The constant bytes hold what the invariant says of them. -/
structure State.ConstantInv (s : State) : Prop where
  liveSelector : ∀ p, s.readLive p 31 = p.setWidth 8
  liveReserved : ∀ p i, reservedAt p i = true → s.readLive p i = 0
  version : s.readLive 0 versionOffset = Config.protocolVersion

theorem State.resetSequence_constantInv (s : State) : s.resetSequence.ConstantInv := by
  refine ⟨fun p => ?_, fun p i hr => ?_, ?_⟩
  · have hp : p = 0 ∨ p = 1 ∨ p = 2 ∨ p = 3 := by revert p; decide
    obtain rfl | rfl | rfl | rfl := hp <;> exact s.readLive_resetSequence _ 31
  · rw [reservedAt_iff] at hr
    rw [State.readLive_resetSequence]
    obtain ⟨rfl, hlo, hhi⟩ | ⟨rfl, hlo, hhi⟩ | ⟨rfl, hlo, hhi⟩ := hr
    · rw [if_neg (by decide), if_pos rfl, if_neg (by omega), if_neg (by omega), if_neg (by omega), if_neg (by omega)]
    · rw [if_neg (by decide), if_neg (by decide), if_pos rfl, if_neg (by omega), if_neg (by omega)]
    · rw [if_neg (by decide), if_neg (by decide), if_neg (by decide), if_neg (by omega)]
  · exact s.readLive_resetSequence 0 versionOffset

/-- Every operation keeps what the invariant says of the constant bytes: RESET writes them so, the others keep them. -/
theorem exec_keeps_constantInv (i : Instr) (s t : State) (hs : s.ConstantInv) (h : exec i s = .next t) :
    t.ConstantInv := by
  by_cases hi : i = .reset
  · subst hi
    injection h with h
    exact h ▸ s.resetSequence_constantInv
  · have hkeep := exec_keeps_constant i s t hi h
    exact ⟨fun p => (hkeep p 31 (.inr (.inl rfl))).trans (hs.liveSelector p),
      fun p j hr => (hkeep p j (.inl hr)).trans (hs.liveReserved p j hr),
      (hkeep 0 versionOffset (.inr (.inr ⟨rfl, rfl⟩))).trans hs.version⟩

/-- The snapshot holds what the invariant says of it: it is as before for the same page, or a copy of the page that is then
current. -/
theorem exec_keeps_snapshot (i : Instr) (s t : State) (hs : s.Inv) (ht : t.ConstantInv) (h : exec i s = .next t) :
    t.tx[31] = t.cur.setWidth 8 ∧ ∀ j, reservedAt t.cur j = true → t.tx[j] = 0 := by
  by_cases hi : i = .reset ∨ ∃ b, i = .selpage b
  · obtain ⟨u, hu, htx⟩ := exec_selection_tx i s hi
    injection hu.symm.trans h with hut
    subst hut
    rw [htx]
    exact ⟨ht.liveSelector u.cur, fun j hr => ht.liveReserved u.cur j hr⟩
  · obtain ⟨htx, hcur⟩ := exec_keeps_tx_cur i s t hi h
    rw [htx, hcur]
    exact ⟨hs.txSelector, hs.txReserved⟩

/-- The flash record stays in canonical form. -/
theorem exec_keeps_flashWf (i : Instr) (s t : State) (hs : Memory.wf s.flash = true) (h : exec i s = .next t) :
    Memory.wf t.flash = true := by
  by_cases hi : ∃ d, i = .flashCommit d
  · obtain ⟨d, rfl⟩ := hi
    obtain ⟨-, -, e⟩ | ⟨-, e⟩ := execFlashCommit_cases d s <;> injection e.symm.trans h with h <;> subst h
    · exact s.commitFlash_wf d hs
    · exact hs
  · rw [exec_keeps_flash i s t (fun d hd => hi ⟨d, hd⟩) h]
    exact hs

/-- Every operation that the context admits keeps the invariant. -/
theorem exec_keeps_inv (i : Instr) (s t : State) (hs : s.Inv) (hwf : i.wf s.ctx = true) (h : exec i s = .next t) :
    t.Inv := by
  have hprot := exec_keeps_protocolInv i s t hs.protocolInv hwf h
  have hconst := exec_keeps_constantInv i s t ⟨hs.liveSelector, hs.liveReserved, hs.version⟩ h
  obtain ⟨hsel, hres⟩ := exec_keeps_snapshot i s t hs hconst h
  exact ⟨hsel, hconst.liveSelector, hprot.unmasked, hprot.armed, hprot.txiRange, hprot.posRange, hprot.posInData,
    hconst.liveReserved, hres, hconst.version, exec_keeps_statusRange i s t hs.statusRange h,
    exec_keeps_flashWf i s t hs.flashWf h⟩

/-- Taking an arrival touches nothing that the invariant speaks of. -/
theorem State.Inv.take {s : State} (h : s.Inv) (a : Arrival) : (s.take a).Inv :=
  ⟨h.txSelector, h.liveSelector, h.unmasked, h.armed, h.txiRange, h.posRange, h.posInData, h.liveReserved, h.txReserved,
    h.version, h.statusRange, h.flashWf⟩

/-- With the mask clear a step takes its arrival and runs the operation selected for it. -/
theorem step_of_unmasked (s : State) (hm : s.irqMask = false) :
    step s = exec (select s.ctx s.nextArrival.event) (s.take s.nextArrival) := by
  obtain ⟨hmask, -⟩ | ⟨-, h⟩ := step_cases s
  · exact absurd (hmask.symm.trans hm) (by decide)
  · exact h

/-- Settles O42: the mask being clear, the step runs an operation that its context admits, on a state with the invariant. -/
theorem invariantKeptByStep : Obligations.InvariantKeptByStep := by
  intro s t hs h
  rw [step_of_unmasked s hs.unmasked] at h
  exact exec_keeps_inv _ _ t (hs.take _) (select_wf s.ctx _) h

/-- Settles O41: `State.reset` is what RESET leaves on itself. -/
theorem invariantAtReset : Obligations.InvariantAtReset := by
  have hconst : State.reset.ConstantInv := State.resetSequence_reset ▸ State.reset.resetSequence_constantInv
  exact ⟨hconst.liveSelector 0, hconst.liveSelector, rfl, rfl, by decide, by decide, nofun, hconst.liveReserved,
    fun i hr => hconst.liveReserved 0 i hr, hconst.version, by decide, State.reset_flash_wf⟩

end Sys2Proof.Machine
end

section
/-! SUPPORT. Transactions (spec/30_encoding.md R62, R63; spec/95_test_vectors.md S1): reading the snapshot, writing page 3
in order, and the selector round trip. -/

namespace Sys2Proof.Machine

/-! ### Reading -/

/-- Byte number `n` of a read transaction (R85): the snapshot, then zeros. -/
def State.readByte (s : State) (n : Nat) : Byte := if h : n < 32 then s.tx[n] else 0

/-- Past the last byte of the snapshot every byte is the same zero. -/
theorem State.readByte_of_ge (s : State) (n : Nat) (h : 32 ≤ n) : s.readByte n = 0 := dif_neg (Nat.not_lt.2 h)

/-- One clocked byte in `SEND_DATA`: the byte at the index, and what is sent from there on is one byte shorter. -/
theorem step_txbyte (s : State) (y : Inputs) (rest : List Arrival) (hp : s.pending = ⟨.txbyte, y⟩ :: rest)
    (hm : s.irqMask = false) (hst : s.st = .sendData) :
    ∃ u, step s = .next u ∧ u.out = some (.byte (s.readByte s.txi.toNat)) ∧
      (∀ n, u.readByte (u.txi.toNat + n) = s.readByte (s.txi.toNat + (n + 1))) ∧ u.pending = rest ∧ u.irqMask = false ∧
      u.st = .sendData ∧ u.tx = s.tx ∧ u.live = s.live ∧ u.cur = s.cur := by
  rw [step_pending s _ rest hp hm, select_txbyte_sendData s hst]
  refine ⟨_, exec_txbyte _, rfl, fun n => ?_, rfl, hm, hst, rfl, rfl, rfl⟩
  by_cases h : s.txi.toNat < 32
  · have hnext : (s.txi + 1).toNat + n = s.txi.toNat + (n + 1) := by bv_omega
    simp only [h, if_true, State.emit_txi, hnext]
    rfl
  · rw [s.readByte_of_ge _ (by omega)]
    apply State.readByte_of_ge
    simp only [h, if_false, State.emit_txi]
    omega

/-- Clocked bytes in `SEND_DATA`: the last one sent stands `xs.length` places after the index, and the live pages, the
snapshot and the current page are as before. -/
theorem run_txbytes (xs : List Inputs) (y : Inputs) (s : State) (rest : List Arrival)
    (hp : s.pending = (y :: xs).map (fun y => (⟨.txbyte, y⟩ : Arrival)) ++ rest) (hm : s.irqMask = false)
    (hst : s.st = .sendData) :
    ∃ t, Host.Core.run Sys2Proof.core (xs.length + 1) s = .next t ∧
      t.out = some (.byte (s.readByte (s.txi.toNat + xs.length))) ∧ t.st = .sendData ∧ t.tx = s.tx ∧ t.live = s.live ∧
      t.cur = s.cur ∧ t.pending = rest := by
  obtain ⟨u, hu, huout, hshift, hup, hum, hust, hutx, hulive, hucur⟩ := step_txbyte s y _ hp hm hst
  induction xs generalizing s y u with
  | nil => exact ⟨u, run_succ s u hu 0, huout, hust, hutx, hulive, hucur, hup⟩
  | cons z xs ih =>
    obtain ⟨w, hw, hwout, hwshift, hwp, hwm, hwst, hwtx, hwlive, hwcur⟩ := step_txbyte u z _ hup hum hust
    obtain ⟨t, ht, htout, htst, httx, htlive, htcur, htp⟩ :=
      ih z u hup hum hust w hw hwout hwshift hwp hwm hwst hwtx hwlive hwcur
    refine ⟨t, (run_succ s u hu _).trans ht, ?_, htst, httx.trans hutx, htlive.trans hulive, htcur.trans hucur, htp⟩
    rw [htout, hshift]
    rfl

/-- Settles O46: the address match puts the index to 0, and `run_txbytes` counts on from there. -/
theorem readTransactionReturnsSnapshot : Obligations.ReadTransactionReturnsSnapshot := by
  intro n xs s x rest hlen hp hm hl
  obtain ⟨y, ys, rfl⟩ := List.exists_cons_of_length_eq_add_one hlen
  obtain rfl : ys.length = n := by simpa using hlen
  obtain ⟨u, hu, hup, hum, hust, hutxi, hutx, hulive, hucur⟩ : ∃ u, step s = .next u ∧
      u.pending = (y :: ys).map (fun y => (⟨.txbyte, y⟩ : Arrival)) ++ rest ∧ u.irqMask = false ∧ u.st = .sendData ∧
      u.txi = 0 ∧ u.tx = s.tx ∧ u.live = s.live ∧ u.cur = s.cur :=
    ⟨_, (step_pending s _ _ hp hm).trans (exec_addrR_of_listen _ hl), rfl, hm, rfl, rfl, rfl, rfl, rfl⟩
  obtain ⟨t, ht, htout, htst, httx, htlive, htcur, htp⟩ := run_txbytes ys y u rest hup hum hust
  refine ⟨t, (run_succ s u hu _).trans ht, ?_, htst, httx.trans hutx, htlive.trans hulive, htcur.trans hucur, htp⟩
  have hzero : (0 : BitVec 6).toNat + ys.length = ys.length := Nat.zero_add _
  rw [htout, hutxi, hzero, State.readByte]
  simp only [hutx]

/-! ### Writing page 3 -/

/-- Each position below the trigger is that of an operation of rows 7, 8 and 9. -/
theorem exists_calibration_op (b : Byte) (n : Nat) (hn : n < 19) : ∃ i : Instr,
    (∃ a, i = .stTcxoCoef a b ∧ n = a.toNat) ∨ (∃ a, i = .stTcxoTemp a b ∧ n = 16 + a.toNat) ∨
      (i = .stTcxoRmse b ∧ n = 18) := by
  by_cases h16 : n < 16
  · exact ⟨_, .inl ⟨BitVec.ofNat 4 n, rfl, by rw [BitVec.toNat_ofNat]; omega⟩⟩
  · by_cases h18 : n < 18
    · exact ⟨_, .inr (.inl ⟨BitVec.ofNat 1 (n - 16), rfl, by rw [BitVec.toNat_ofNat]; omega⟩)⟩
    · exact ⟨_, .inr (.inr ⟨rfl, by omega⟩)⟩

/-- One data byte on page 3 below the trigger: it is stored at the cursor, which moves on by one. -/
theorem step_calibration_byte (s : State) (b : Byte) (x : Inputs) (rest : List Arrival)
    (hp : s.pending = ⟨.rxbyte b, x⟩ :: rest) (hm : s.irqMask = false) (hst : s.st = .getData) (hcur : s.cur = 2)
    (hpos : s.pos.toNat < 19) :
    ∃ u, step s = .next u ∧ u.pending = rest ∧ u.irqMask = false ∧ u.st = .getData ∧ u.cur = 2 ∧
      u.pos.toNat = s.pos.toNat + 1 ∧ u.tx = s.tx ∧ u.flash = s.flash ∧
      ∀ (q : BitVec 2) (j : Fin 32), u.readLive q j = if q = 2 ∧ j.val = s.pos.toNat then b else s.readLive q j := by
  obtain ⟨i, hi⟩ := exists_calibration_op b s.pos.toNat hpos
  obtain ⟨hsel, u, hu, hread, htx, hucur, humask, ⟨hupos, htail⟩, -, -, hflash, -, hupend, -⟩ :=
    calibrationByteIsStored b { s with inputs := x, out := none, pending := rest } i _ hi
  have hnext : (s.pos + 1).toNat = s.pos.toNat + 1 := by bv_omega
  rw [if_neg (by rw [hnext]; omega)] at htail
  refine ⟨u, ?_, hupend, humask.trans hm, htail.1.trans hst, hucur.trans hcur, by rw [hupos, hnext], htx, hflash, hread⟩
  rw [step_pending s _ rest hp hm]
  exact (congrArg (exec · _) (hsel hst hcur rfl)).trans hu

/-- Settles O47: by induction on the bytes, `step_calibration_byte` for each. -/
theorem calibrationWriteLandsInOrder : Obligations.CalibrationWriteLandsInOrder := by
  intro ds
  induction ds with
  | nil =>
    intro s rest hp hm hst hcur hpos
    refine ⟨s, rfl, hst, rfl, rfl, rfl, hp, fun q j => ?_⟩
    rw [dif_neg]
    simp only [List.length_nil]
    omega
  | cons d ds ih =>
    intro s rest hp hm hst hcur hpos
    rw [List.length_cons] at hpos
    obtain ⟨u, hu, hup, hum, hust, hucur, hupos, hutx, huflash, huread⟩ :=
      step_calibration_byte s d.1 d.2 _ hp hm hst hcur (by omega)
    obtain ⟨t, ht, htst, htpos, httx, htflash, htp, htread⟩ := ih u rest hup hum hust hucur (by omega)
    refine ⟨t, (run_succ s u hu _).trans ht, htst, by rw [htpos, hupos, List.length_cons]; omega, httx.trans hutx,
      htflash.trans huflash, htp, fun q j => ?_⟩
    rw [htread, huread]
    simp only [hupos, List.length_cons]
    by_cases hq : q = 2
    · obtain hlt | heq | hgt := Nat.lt_trichotomy j.val s.pos.toNat
      · rw [dif_neg (by omega), dif_neg (by omega), if_neg (by omega)]
      · rw [dif_neg (by omega), dif_pos ⟨hq, by omega, by omega⟩, if_pos ⟨hq, heq⟩]
        simp [heq]
      · by_cases hin : j.val < s.pos.toNat + 1 + ds.length
        · have hidx : j.val - s.pos.toNat = (j.val - (s.pos.toNat + 1)) + 1 := by omega
          rw [dif_pos ⟨hq, by omega, hin⟩, dif_pos ⟨hq, by omega, by omega⟩]
          simp only [hidx, List.getElem_cons_succ]
        · rw [dif_neg (by omega), dif_neg (by omega), if_neg (by omega)]
    · rw [dif_neg (fun h => hq h.1), dif_neg (fun h => hq h.1), if_neg (fun h => hq h.1)]

/-! ### The selector round trip -/

/-- The effective selector as a byte. -/
theorem selEff_setWidth (v : Byte) : (selEff v).setWidth 8 = if v.toNat ≤ 3 then v else 0 := by
  split_ifs with hv
  · apply BitVec.eq_of_toNat_eq
    rw [BitVec.toNat_setWidth, selEff_toNat_of_le v hv]
    omega
  · rw [selEff_of_gt v (by omega)]
    rfl

/-- A step on a listed arrival, from a state with the invariant: the operation runs, the rest of the list stays, and the
invariant holds again. -/
theorem State.Inv.step_listed {s : State} (hs : s.Inv) (a : Arrival) (rest : List Arrival) (hp : s.pending = a :: rest) :
    ∃ t, step s = .next t ∧ t.Inv ∧ t.pending = rest ∧ exec (select s.ctx a.event) (s.take a) = .next t := by
  obtain ⟨t, ht⟩ := exec_next (select s.ctx a.event) (s.take a)
  have hstep : step s = .next t := by rw [step_of_unmasked s hs.unmasked, s.nextArrival_listed a rest hp, ht]
  obtain ⟨-, hpend, -, -⟩ := exec_schedule _ _ _ ht
  exact ⟨t, hstep, invariantKeptByStep s t hs hstep, by rw [hpend, State.take_pending, hp, List.tail_cons], ht⟩

/-- The write transaction `W[31, v]` leaves the effective selector of `v` in `cur`. -/
theorem run_select (s : State) (v : Byte) (x1 x2 x3 x4 : Inputs) (rest : List Arrival) (hs : s.Inv)
    (hp : s.pending = [⟨.addrW, x1⟩, ⟨.rxbyte 31, x2⟩, ⟨.rxbyte v, x3⟩, ⟨.stop, x4⟩] ++ rest) :
    ∃ t, (∀ n, Host.Core.run Sys2Proof.core (n + 4) s = Host.Core.run Sys2Proof.core n t) ∧ t.Inv ∧ t.cur = selEff v ∧
      t.pending = rest := by
  obtain ⟨s1, h1, hs1, hp1, e1⟩ := hs.step_listed _ _ hp
  obtain ⟨s2, h2, hs2, hp2, e2⟩ := hs1.step_listed _ _ hp1
  obtain ⟨s3, h3, hs3, hp3, e3⟩ := hs2.step_listed _ _ hp2
  obtain ⟨s4, h4, hs4, hp4, e4⟩ := hs3.step_listed _ _ hp3
  have hst1 : s1.st = .getAddr := by
    injection (exec_addrW_of_listen (s.take ⟨.addrW, x1⟩) hs.armed).symm.trans e1 with e
    rw [← e]; rfl
  have hdata2 : s2.st = .getData ∧ s2.pos = 31 := by
    rw [select_rxbyte_at_getAddr 31 s1 hst1] at e2
    injection e2 with e
    rw [← e]; exact ⟨rfl, rfl⟩
  have hcur3 : s3.cur = selEff v := by
    rw [select_rxbyte_at_selector v s2 hdata2.1 (by rw [hdata2.2]; rfl)] at e3
    injection (exec_selpage v _).symm.trans e3 with e
    rw [← e, State.selectPage_cur]
  have hcur4 : s4.cur = selEff v := by
    injection (exec_stop _).symm.trans e4 with e
    rw [← e, ← hcur3]; rfl
  exact ⟨s4, fun n => by rw [run_succ s s1 h1, run_succ s1 s2 h2, run_succ s2 s3 h3, run_succ s3 s4 h4], hs4, hcur4, hp4⟩

/-- Settles O48: `run_select`, then a read whose byte 31 the invariant ties to `cur`. -/
theorem selectThenReadReturnsSelector : Obligations.SelectThenReadReturnsSelector := by
  intro s v x1 x2 x3 x4 x5 xs rest hs hlen hp
  obtain ⟨u, hu, hinv, hcur, hup⟩ := run_select s v x1 x2 x3 x4 _ hs hp
  obtain ⟨t, ht, hout, -, -, -, -, htp⟩ :=
    readTransactionReturnsSnapshot 31 xs u x5 rest hlen hup hinv.unmasked hinv.armed
  refine ⟨t, (hu 33).trans ht, ?_, htp⟩
  rw [hout, dif_pos (by decide), ← selEff_setWidth, ← hcur, ← hinv.txSelector]

end Sys2Proof.Machine
end

section
/-! SUPPORT. The pending save (spec/43_flash_store.md R137; log 14): each step runs the commit, meets a reset, or uses up a
listed arrival or some patience. -/

namespace Sys2Proof.Machine

/-- With a save pending, nothing listed and no patience left, the next arrival is a commit. -/
theorem nextArrival_of_exhausted (s : State) (hs : s.saveByte ≠ 0) (hm : s.irqMask = false) (hp : s.pending = [])
    (hz : s.patience = 0) : ∃ d, s.nextArrival.event = .flashCommit d := by
  refine ⟨Config.commitDraws s.drawn, ?_⟩
  have hn : s.nextArrival = s.freeArrival := by simp [State.nextArrival, hp]
  rw [hn, State.freeArrival, if_pos (s.commitDue_iff.2 ⟨hs, hm, hz⟩)]

/-- While a place of the list or some patience is left, taking an arrival uses up one of them. -/
theorem schedule_decreases (s : State) (h : s.pending ≠ [] ∨ s.patience ≠ 0) :
    s.pending.tail.length + s.patienceAfter + 1 = s.pending.length + s.patience := by
  unfold State.patienceAfter
  cases hp : s.pending with
  | nil =>
    have hz : s.patience ≠ 0 := h.resolve_left (fun h => h hp)
    have hdue : ¬ s.commitDue = true := fun hd => hz (s.commitDue_iff.1 hd).2.2
    simp only [List.tail_nil, List.length_nil, if_neg hdue]
    omega
  | cons a rest =>
    simp only [List.tail_cons, List.length_cons]
    omega

/-- A commit that runs clears the trigger. -/
theorem State.committed_save (s : State) (d : FlashDraws) : (s.committed d).saveByte = 0 :=
  s.readLive_committed d 2 saveOffset

/-- One step with a save pending clears the trigger, and then took a commit or a reset, or the save stays pending and the
schedule is shorter by one. -/
theorem step_pendingSave (s : State) (hs : s.Inv) (hsave : s.saveByte ≠ 0) :
    ∃ t, step s = .next t ∧
      ((t.saveByte = 0 ∧ (s.nextArrival.event = .reset ∨ ∃ d, s.nextArrival.event = .flashCommit d)) ∨
        (t.saveByte ≠ 0 ∧ t.pending.length + t.patience + 1 = s.pending.length + s.patience)) := by
  obtain ⟨t, ht⟩ := exec_next (select s.ctx s.nextArrival.event) (s.take s.nextArrival)
  refine ⟨t, (step_of_unmasked s hs.unmasked).trans ht, ?_⟩
  have htaken : (s.take s.nextArrival).saveByte = s.saveByte := rfl
  have hev := select_event s.ctx s.nextArrival.event
  by_cases hclear : t.saveByte = 0
  · refine .inl ⟨hclear, ?_⟩
    have hne : t.saveByte ≠ (s.take s.nextArrival).saveByte := by rw [htaken, hclear]; exact hsave.symm
    obtain ⟨hset, -⟩ | ⟨-, hi⟩ := triggerSetByHostClearedByCommit _ _ t ht hne
    · exact absurd hclear hset
    · obtain hi | ⟨d, hi⟩ := hi <;> rw [hi] at hev
      · exact .inl hev.symm
      · exact .inr ⟨d, hev.symm⟩
  · refine .inr ⟨hclear, ?_⟩
    obtain ⟨-, hpend, -, hpat⟩ := exec_schedule _ _ _ ht
    rw [hpend, hpat, State.take_pending, State.take_patience]
    apply schedule_decreases
    by_contra hnone
    rw [not_or, not_not, not_not] at hnone
    obtain ⟨d, hd⟩ := nextArrival_of_exhausted s hsave hs.unmasked hnone.1 hnone.2
    have hcommit := exec_flashCommit_of_enabled d (s.take s.nextArrival) hsave hs.unmasked
    rw [hd] at ht
    injection hcommit.symm.trans ht with h
    exact hclear (h ▸ State.committed_save _ d)

/-- Settles O57: by induction on what is left of the schedule and the patience, `step_pendingSave` for each step. -/
theorem pendingSaveEventuallyCommits : Obligations.PendingSaveEventuallyCommits := by
  intro s hs hsave
  induction hm : s.pending.length + s.patience using Nat.strong_induction_on generalizing s with
  | _ m ih =>
    obtain ⟨w, hw, ⟨hclear, hev⟩ | ⟨hkept, hless⟩⟩ := step_pendingSave s hs hsave
    · exact ⟨0, s, w, Nat.zero_le _, fun k hk => ⟨s, by rw [Nat.le_zero.1 hk]; rfl, hsave⟩, rfl, hw, hclear, hev⟩
    · obtain ⟨n, u, t, hn, hall, hu, ht, hclear, hev⟩ :=
        ih _ (by omega) w (invariantKeptByStep s w hs hw) hkept rfl
      refine ⟨n + 1, u, t, by omega, fun k hk => ?_, (run_succ s w hw n).trans hu, ht, hclear, hev⟩
      cases k with
      | zero => exact ⟨s, rfl, hsave⟩
      | succ k =>
        obtain ⟨v, hv, hvsave⟩ := hall k (by omega)
        exact ⟨v, (run_succ s w hw k).trans hv, hvsave⟩

end Sys2Proof.Machine
end
